-- ==== Sys2Proof/Word.lean ====
section
/-! DEFINITION. The three word types of the engine (00_scope.md R8): bytes, nibbles and 16-bit port words.
Sums of bytes wrap modulo 256 by the type (00_scope.md R9). -/

namespace Sys2Proof

/-- An unsigned 8-bit value: an entry of `S`, an index register, an address of `S`, an operand (R8, R9). -/
abbrev Byte := BitVec 8

/-- An unsigned 4-bit value, the operand of ABSN (R8, R48). -/
abbrev Nibble := BitVec 4

/-- A 16-bit word of the command port or of the response port (R45, R49). -/
abbrev Word := BitVec 16

end Sys2Proof
end

