-- ==== Sys2Proof/Syntax.lean ====
section
/-! DEFINITION. The commands of SPZ-CMD-1, one constructor per row of the opcode map (30_encoding.md R52). -/

namespace Sys2Proof

/-- A command (R52). Operand types are exact: every value of each is legal (R47, R48). -/
inductive Instr where
  /-- INIT, format N (R65). -/
  | init
  /-- ABSN x, format X (R85). -/
  | absn (x : Nibble)
  /-- ABSB b, format B (R86). -/
  | absb (b : Byte)
  /-- STOP, format N (R87). -/
  | stop
  /-- FLUSH, format N (R95). -/
  | flush
  /-- DRIP, format N (R96). -/
  | drip
  /-- XORK b, format B (R97). -/
  | xork (b : Byte)
  deriving DecidableEq, Repr

end Sys2Proof
end

