-- ==== Sys2Proof/WellFormed.lean ====
section
/-! DEFINITION. Well-formed command words: the match/mask table of 30_encoding.md R52, written independently of
the decoder of R53. A term of `Instr` cannot be ill-formed, since its operand types admit exactly the legal
operands; what can be ill-formed is a WORD, and the checks are on words. -/

namespace Sys2Proof

/-- One row of the opcode map: the word `c` selects it when `c AND mask = match` (R52). -/
structure OpcodeRow where
  mnemonic : String
  pattern : Word
  mask : Word
  deriving DecidableEq, Repr

/-- The opcode map (R52). -/
def opcodeMap : List OpcodeRow :=
  [ ⟨"INIT", 0x0100, 0xFFFF⟩, ⟨"ABSN", 0x0200, 0xFFF0⟩, ⟨"ABSB", 0x0300, 0xFF00⟩, ⟨"STOP", 0x0400, 0xFFFF⟩,
    ⟨"FLUSH", 0x0500, 0xFFFF⟩, ⟨"DRIP", 0x0600, 0xFFFF⟩, ⟨"XORK", 0x0700, 0xFF00⟩ ]

/-- `c AND mask = match` (R52). -/
def OpcodeRow.selects (r : OpcodeRow) (c : Word) : Bool := c &&& r.mask == r.pattern

/-- A word is well-formed when some row of the opcode map selects it; every other word is reserved (R53). -/
def wellFormedWord (c : Word) : Bool := opcodeMap.any (fun r => r.selects c)

/-- The row of the opcode map a command belongs to (R52). -/
def Instr.row : Instr → OpcodeRow
  | .init => ⟨"INIT", 0x0100, 0xFFFF⟩
  | .absn _ => ⟨"ABSN", 0x0200, 0xFFF0⟩
  | .absb _ => ⟨"ABSB", 0x0300, 0xFF00⟩
  | .stop => ⟨"STOP", 0x0400, 0xFFFF⟩
  | .flush => ⟨"FLUSH", 0x0500, 0xFFFF⟩
  | .drip => ⟨"DRIP", 0x0600, 0xFFFF⟩
  | .xork _ => ⟨"XORK", 0x0700, 0xFF00⟩

end Sys2Proof
end

