-- ==== Sys2Proof/Decode.lean ====
section
/-! DEFINITION. The decoder of 30_encoding.md R53, total on 16-bit words and refusing by name, and after it the
encoder of the same layout (R45 to R48, R52). -/

namespace Sys2Proof

/-- The opcode field `c[15:8]` (R45). -/
def opField (c : Word) : Byte := c.extractLsb' 8 8

/-- The operand byte `c[7:0]` (R45). -/
def immField (c : Word) : Byte := c.extractLsb' 0 8

/-- Why a word is reserved: the three classes R53 lists. The engine tells them apart nowhere; the name is the
model's own (log entry 12). -/
inductive Reserved where
  /-- `op` is 0x00 or 0x08 to 0xFF. -/
  | unassignedOpcode
  /-- `op` selects INIT, STOP, FLUSH or DRIP and `imm` is not 0x00. -/
  | nonzeroOperand
  /-- `op` selects ABSN and `imm[7:4]` is not 0. -/
  | nibbleOutOfRange
  deriving DecidableEq, Repr

/-- The decoder's answer: a command, or ILLEGAL (R53). -/
inductive Decoded where
  | command (i : Instr)
  | illegal (why : Reserved)
  deriving DecidableEq, Repr

/-- Format N: the operand byte must be 0x00 (R46). -/
def decodeN (imm : Byte) (i : Instr) : Decoded :=
  if imm = 0x00 then .command i else .illegal .nonzeroOperand

/-- Format X: bits 7..4 must be 0, the operand is bits 3..0 (R48). -/
def decodeX (imm : Byte) : Decoded :=
  if imm.extractLsb' 4 4 = 0 then .command (.absn (imm.extractLsb' 0 4)) else .illegal .nibbleOutOfRange

/-- `decode(c)` of R53. -/
def decode (c : Word) : Decoded :=
  if opField c = 0x01 then decodeN (immField c) .init
  else if opField c = 0x02 then decodeX (immField c)
  else if opField c = 0x03 then .command (.absb (immField c))
  else if opField c = 0x04 then decodeN (immField c) .stop
  else if opField c = 0x05 then decodeN (immField c) .flush
  else if opField c = 0x06 then decodeN (immField c) .drip
  else if opField c = 0x07 then .command (.xork (immField c))
  else .illegal .unassignedOpcode

/-- The command of a decoder's answer, if it is one. -/
def Decoded.instr? : Decoded → Option Instr
  | .command i => some i
  | .illegal _ => none

/-- `{op8, imm8}` (R8, R45). -/
def packWord (op imm : Byte) : Word := op ++ imm

/-- The word of a command (R46, R47, R48, R52). -/
def encode : Instr → Word
  | .init => packWord 0x01 0x00
  | .absn x => packWord 0x02 ((0 : Nibble) ++ x)
  | .absb b => packWord 0x03 b
  | .stop => packWord 0x04 0x00
  | .flush => packWord 0x05 0x00
  | .drip => packWord 0x06 0x00
  | .xork b => packWord 0x07 b

/-- The 16-bit word whose low `nbits` bits are those of `w` and whose other bits are 0: a command is one
parallel word with bit 0 least significant, so the table's numbering is the word's (R8, R33(c), R45). -/
def tableWord (nbits w : Nat) : Word := BitVec.ofNat 16 (w % 2 ^ nbits)

/-- The command the decoder reads from a word of the opcode table. -/
def decodeTableWord (nbits w : Nat) : Option Instr := (decode (tableWord nbits w)).instr?

end Sys2Proof
end

