-- ==== Sys2Proof/Config.lean ====
section
/-! DEFINITION. What the spec leaves open and the model names: the byte that unspecified state shows at
power-up, and the free values that the Spritz state takes after a reset in mid-run. The spec's one open
parameter, the latency of a command (70_reset_and_hazards.md R157), is read by no rule and has no place here
(log entry 13). -/

namespace Sys2Proof

/-- What an unlisted address of `S` reads as, and what the six index registers hold in `State.reset`.
DESIGN CHOICE, unsafe (log entries 1 and 2): 10_state.md R25 gives no value; neither zero nor an INIT value of
any register is taken, as R25 and item U3 of 93_implementation_defined.md ask. -/
def Config.unspecifiedByte : Byte := 0xEE

/-- FREE VALUE: the byte that place `p` of the Spritz state (0 to 255 the entries of `S`, 256 to 261 the
registers i, j, k, z, a, w) holds after reset number `n`, `before` being the 262 bytes these places held before it and
`running` the command it abandons, if any (70_reset_and_hazards.md R145: "become unspecified"; 10_state.md R25: two
resets need not leave the same contents). It has no body, so nothing can be proved of the values, nor that they
depend, or do not depend, on any of the four. DESIGN CHOICE: whether the old contents are kept, cleared or replaced
by noise the spec leaves open (R145), so they are an argument here; that the values depend on nothing else is the
model's. Log entry 3. -/
opaque Config.afterReset (n p : Nat) (before : List Byte) (running : Option Word) : Byte

end Sys2Proof
end

