-- ==== Sys2Proof/Machine/State.lean ====
section
/-! DEFINITION. The state of the machine as plain data: the Spritz state and the interface flags of the engine
(10_state.md R10), and the host's side of the two ports (R20, 30_encoding.md R49). -/

namespace Sys2Proof.Machine

/-- The contents of the state RAM `S` as (address, byte) pairs in the canonical form of `Memory.wf`: addresses
strictly rising, none at or above 256, no entry equal to what an unlisted address reads as (20_memory.md R30). -/
abbrev Memory := List Host.Cell

/-- The Spritz state: `S` and the six index registers (R10 to R17). -/
structure Spritz where
  S : Memory
  i : Byte
  j : Byte
  k : Byte
  z : Byte
  a : Byte
  w : Byte
  deriving DecidableEq, Repr

/-- The status codes the engine produces (30_encoding.md R50). -/
inductive Status where
  /-- 0x00: the command was executed in full. -/
  | ok
  /-- 0x01: the word is a reserved encoding. -/
  | errIllegal
  /-- 0x02: `rdy` was 0 and the command was not INIT. -/
  | errNotInit
  /-- 0x03: `flt` was already 1. -/
  | errFaulted
  deriving DecidableEq, Repr

/-- One thing the host does to the engine (R20, 70_reset_and_hazards.md R145, R146). -/
inductive HostAct where
  /-- Present the command word `c` and take its response (R20, R150). -/
  | issue (c : Word)
  /-- Assert reset while no command executes; power-up after a power loss is the same (R145, R139). -/
  | reset
  /-- Present `c`, then assert reset before its response is delivered (R146). -/
  | resetDuring (c : Word)
  deriving DecidableEq, Repr

/-- The state of engine and host. -/
structure State where
  /-- `S`, `i`, `j`, `k`, `z`, `a`, `w` (R10). While `rdy = 0` no rule reads it but through INIT, which overwrites
  all of it (R25). -/
  spritz : Spritz
  /-- 1 when a Spritz state exists (R18). -/
  rdy : Bool
  /-- The sticky fault flag (R19). -/
  flt : Bool
  /-- The host's program (R20), with its assertions of reset (R146). -/
  prog : List HostAct
  /-- The position of the next item of `prog` (R20). -/
  cur : Nat
  /-- The response words delivered so far, oldest first (R49, R149). -/
  responses : List Word
  /-- The model's own count of resets asserted: it numbers the free values a reset leaves (log entry 3). -/
  resets : Nat
  deriving DecidableEq, Repr

/-- The reasons the machine could stop with a fault: there are none. The engine's own faults ERR_ILLEGAL and
ERR_NOTINIT are next states with `flt = 1` and a response (60_exceptions.md R127), and the engine never stops
answering (R128, 70_reset_and_hazards.md R155). Log entry 19. -/
inductive Fault where
  deriving DecidableEq, Repr

/-- The reasons a step could be refused. -/
inductive Refusal where
  /-- Raised by exec's arm of an instruction that has no meaning yet; no arm raises it now. Safe. -/
  | notModelled (mnemonic : String)
  deriving DecidableEq, Repr

/-- The answer of a step or of a meaning. -/
abbrev Answer := Host.Outcome State Fault Refusal

/-- The Spritz state at power-up: unspecified (R25); DESIGN CHOICE (log entries 1 and 2): `S` lists nothing and
every register holds `Config.unspecifiedByte`. -/
def Spritz.powerUp : Spritz where
  S := []
  i := Config.unspecifiedByte
  j := Config.unspecifiedByte
  k := Config.unspecifiedByte
  z := Config.unspecifiedByte
  a := Config.unspecifiedByte
  w := Config.unspecifiedByte

/-- The machine right after the power-up reset (R27, R147): `rdy = 0`, `flt = 0`, `cur = 0`, no response, the
port ready; the host's program is empty until it is loaded from outside (log entry 4). -/
def State.reset : State where
  spritz := Spritz.powerUp
  rdy := false
  flt := false
  prog := []
  cur := 0
  responses := []
  resets := 0

end Sys2Proof.Machine
end

