-- ==== Sys2Proof/Machine/Ops.lean ====
section
/-! DEFINITION. The named operations: reading and writing `S`, delivering a response, raising a fault and
refusing, reset (the only return from a fault), and the host's port. -/

namespace Sys2Proof.Machine

/-! ### The state RAM (20_memory.md R30 to R36) -/

/-- `S[e]`: the byte listed for the address, `Config.unspecifiedByte` if none is. Total (R34), no side effect
(R36). -/
def Memory.read : Memory → Byte → Byte
  | [], _ => Config.unspecifiedByte
  | (b, v) :: rest, e => if b = e.toNat then v else Memory.read rest e

/-- The memory with no entry for address `e`. -/
def Memory.erase : Memory → Nat → Memory
  | [], _ => []
  | (b, v) :: rest, e => if b = e then Memory.erase rest e else (b, v) :: Memory.erase rest e

/-- The memory with the entry `(e, v)` put before the first greater address. -/
def Memory.insert : Memory → Nat → Byte → Memory
  | [], e, v => [(e, v)]
  | (b, x) :: rest, e, v => if e < b then (e, v) :: (b, x) :: rest else (b, x) :: Memory.insert rest e v

/-- `S[e] <- v` (R36), in canonical form: a byte equal to what an unlisted address reads as is not listed. -/
def Memory.write (m : Memory) (e v : Byte) : Memory :=
  if v = Config.unspecifiedByte then Memory.erase m e.toNat
  else Memory.insert (Memory.erase m e.toNat) e.toNat v

/-- The entries of `f` at the `n` addresses from `e` upward, in canonical form. -/
def Memory.tabulate (f : Byte → Byte) : Nat → Nat → Memory
  | 0, _ => []
  | n + 1, e =>
    if f (BitVec.ofNat 8 e) = Config.unspecifiedByte then Memory.tabulate f n (e + 1)
    else (e, f (BitVec.ofNat 8 e)) :: Memory.tabulate f n (e + 1)

/-- The memory with `S[n] = f n` at all 256 addresses, every one of them written (40_init.md R65). -/
def Memory.ofFn (f : Byte → Byte) : Memory := Memory.tabulate f 256 0

/-- The canonical form: addresses strictly rising, all below 256, no entry equal to what an unlisted address
reads as. -/
abbrev Memory.wf (m : Memory) : Prop :=
  m.Pairwise (fun c d => c.1 < d.1) ∧ ∀ c ∈ m, c.1 < 256 ∧ c.2 ≠ Config.unspecifiedByte

/-! ### Responses (30_encoding.md R49 to R51) -/

/-- The code of a status (R50). -/
def Status.code : Status → Byte
  | .ok => 0x00
  | .errIllegal => 0x01
  | .errNotInit => 0x02
  | .errFaulted => 0x03

/-- The response word `{st, d}` (R49). -/
def responseWord (st : Status) (d : Byte) : Word := st.code ++ d

/-- The status byte `r[15:8]` (R49). -/
def statusByte (r : Word) : Byte := r.extractLsb' 8 8

/-- The data byte `r[7:0]` (R49). -/
def dataByte (r : Word) : Byte := r.extractLsb' 0 8

/-- The host's cursor moves to the next item (10_state.md R20). -/
def State.advance (s : State) : State := { s with cur := s.cur + 1 }

/-- `respond(st, d)`: the response is delivered and the cursor moves on, whatever the status (R8, R20, R49). -/
def State.respond (st : Status) (d : Byte) (s : State) : State :=
  ({ s with responses := s.responses ++ [responseWord st d] }).advance

/-- A command executed in full: the new Spritz state and the response OK with data byte `d` (R50). -/
def State.complete (p : Spritz) (d : Byte) (s : State) : State := ({ s with spritz := p }).respond .ok d

/-! ### Faults, refusal, reset (60_exceptions.md R125 to R131, 70_reset_and_hazards.md R145) -/

/-- `raise Fault(code)` (R127): `flt <- 1`, all else kept, response `{code, 0x00}`. -/
def State.raiseFault (code : Status) (s : State) : State := ({ s with flt := true }).respond code 0x00

/-- The refusal of any word while `flt = 1` (R128). -/
def State.refuse (s : State) : State := s.respond .errFaulted 0x00

/-- Admission of a command that needs a Spritz state (R129, R141): refused while `flt = 1`, ERR_NOTINIT while
`rdy = 0`, else the body runs on the Spritz state and answers OK with its byte. -/
def State.whenReady (body : Spritz → Spritz × Byte) (s : State) : Answer :=
  if s.flt then .next s.refuse
  else if s.rdy then .next (s.complete (body s.spritz).1 (body s.spritz).2)
  else .next (s.raiseFault .errNotInit)

/-- A reserved word (R129, R141): refused while `flt = 1`, else ERR_ILLEGAL. -/
def State.illegalWord (s : State) : State := if s.flt then s.refuse else s.raiseFault .errIllegal

/-- The bytes a Spritz state holds, by place: the entries of `S`, then i, j, k, z, a, w. -/
def Spritz.contents (p : Spritz) : List Byte :=
  (List.range 256).map (fun e => p.S.read (BitVec.ofNat 8 e)) ++ [p.i, p.j, p.k, p.z, p.a, p.w]

/-- The unspecified Spritz state that reset number `n` leaves: free values (R25, R145). DESIGN CHOICE (log entry 3):
whether they depend on what `p` held before the reset, or on the command `running` when it came, the spec leaves
open, so both are arguments of the free value and no claim can rest on either. -/
def Spritz.unspecified (n : Nat) (running : Option Word) (p : Spritz) : Spritz where
  S := Memory.ofFn (fun e => Config.afterReset n e.toNat p.contents running)
  i := Config.afterReset n 256 p.contents running
  j := Config.afterReset n 257 p.contents running
  k := Config.afterReset n 258 p.contents running
  z := Config.afterReset n 259 p.contents running
  a := Config.afterReset n 260 p.contents running
  w := Config.afterReset n 261 p.contents running

/-- Reset (R145): `rdy <- 0`, `flt <- 0`, the Spritz state becomes unspecified, no response is delivered for a
command in progress, `running`. The only return from a fault (R131). -/
def State.hardReset (running : Option Word) (s : State) : State :=
  { s with
    spritz := Spritz.unspecified s.resets running s.spritz, rdy := false, flt := false, resets := s.resets + 1 }

/-! ### The host's port (10_state.md R20, 70_reset_and_hazards.md R150) -/

/-- What the host does next: `prog[cur]`, nothing at the end of the program (R149). -/
def State.fetch (s : State) : Option HostAct := s.prog[s.cur]?

/-- The host puts the command word `c` at its cursor: at the end of the program it appends it, which is how a host
that chooses its next command after seeing a response is modelled (R151). -/
def State.present (c : Word) (s : State) : State :=
  { s with prog := s.prog.take s.cur ++ .issue c :: s.prog.drop (s.cur + 1), cur := min s.cur s.prog.length }

end Sys2Proof.Machine
end

