-- ==== Sys2Proof/Machine/Operands.lean ====
section
/-! DEFINITION. Operand and address forms (30_encoding.md R55, 41_sequencer_microops.md R81). None changes a base
register; every sum is reduced modulo 256 before it is used as an address (00_scope.md R9). The form "register
direct" is `Memory.read` at the register itself. -/

namespace Sys2Proof.Machine

/-- The form "constant plus operand": `128 + x`, an address in 128 to 143 (R81, R85). -/
def nibbleTarget (x : Nibble) : Byte := 128 + x.setWidth 8

/-- The form "loop index", high partner of a CRUSH pair: `255 - v` (R73, R81). -/
def mirror (v : Byte) : Byte := 255 - v

/-- The form "register plus loaded byte", or plus a second register: `S[x + y]` (R81). -/
def Memory.readSum (m : Memory) (x y : Byte) : Byte := m.read (x + y)

/-- `b AND 0x0F`, the nibble ABSB absorbs first (R33(a), R86). -/
def lowNibble (b : Byte) : Nibble := (b &&& 0x0F).setWidth 4

/-- `b SHR 4`, the nibble ABSB absorbs second (R33(a), R86). -/
def highNibble (b : Byte) : Nibble := (b >>> 4).setWidth 4

end Sys2Proof.Machine
end

