-- ==== Sys2Proof/Machine/Flags.lean ====
section
/-! DEFINITION. The three conditions the sequencer tests (41_sequencer_microops.md R77). They are computed and
consumed inside one micro-operation; the engine keeps no condition code (10_state.md R19). The two interface
flags `rdy` and `flt` are fields of State, written by INIT, `State.raiseFault` and `State.hardReset` only. -/

namespace Sys2Proof.Machine

/-- Absorb window full: `a == 128`, an equality (R77, R85, R87). -/
def Spritz.windowFull (p : Spritz) : Bool := p.a == 128

/-- Absorbed data pending: `a > 0`, unsigned (R77, R95, R96, R97). -/
def Spritz.pending (p : Spritz) : Bool := BitVec.ult 0 p.a

/-- Pair out of order: `S[v] > S[255 - v]`, unsigned (R73, R77). -/
def Spritz.outOfOrder (v : Byte) (p : Spritz) : Bool := BitVec.ult (p.S.read (mirror v)) (p.S.read v)

end Sys2Proof.Machine
end

