-- ==== Sys2Proof/Machine/Sequencer.lean ====
section
/-! DEFINITION. The micro-operations of the update sequencer (41_sequencer_microops.md R70 to R75) and the bodies
that commands share (42_absorb.md R85, 43_output.md R95 to R97), as total functions of the Spritz state. The
assignments take effect in the order written (00_scope.md R8). -/

namespace Sys2Proof.Machine

/-- SWAP(x, y) (R70): both entries are read, then both are written (20_memory.md R35). -/
def Spritz.swap (x y : Byte) (p : Spritz) : Spritz :=
  { p with S := (p.S.write x (p.S.read y)).write y (p.S.read x) }

/-- The `i` line of UPDATE (R71). -/
def Spritz.stepI (p : Spritz) : Spritz := { p with i := p.i + p.w }

/-- The `j` line of UPDATE: the new `i`, the old `j`, the old `k` (R71). -/
def Spritz.stepJ (p : Spritz) : Spritz := { p with j := p.k + p.S.readSum p.j (p.S.read p.i) }

/-- The `k` line of UPDATE: the new `i`, the old `k`, the new `j` (R71). -/
def Spritz.stepK (p : Spritz) : Spritz := { p with k := p.i + p.k + p.S.read p.j }

/-- The last line of UPDATE: `SWAP(i, j)` (R71). -/
def Spritz.swapIJ (p : Spritz) : Spritz := p.swap p.i p.j

/-- UPDATE() (R71), its four lines in order. -/
def Spritz.update (p : Spritz) : Spritz := p.stepI.stepJ.stepK.swapIJ

/-- `repeat r times: UPDATE()` (R72). -/
def Spritz.updates : Nat → Spritz → Spritz
  | 0, p => p
  | r + 1, p => Spritz.updates r p.update

/-- `w <- w + 2` (R72). -/
def Spritz.addStride (p : Spritz) : Spritz := { p with w := p.w + 2 }

/-- WHIP(r) (R72). -/
def Spritz.whip (r : Nat) (p : Spritz) : Spritz := (Spritz.updates r p).addStride

/-- One iteration of CRUSH (R73). -/
def Spritz.crushPair (v : Byte) (p : Spritz) : Spritz :=
  if p.outOfOrder v then p.swap v (mirror v) else p

/-- `n` iterations of CRUSH from `v` upward (R73). -/
def Spritz.crushFrom : Nat → Byte → Spritz → Spritz
  | 0, _, p => p
  | n + 1, v, p => Spritz.crushFrom n (v + 1) (p.crushPair v)

/-- CRUSH() (R73): `v` = 0 to 127, ascending. -/
def Spritz.crush (p : Spritz) : Spritz := Spritz.crushFrom 128 0 p

/-- The whip count of SHUFFLE (00_scope.md R7). -/
def whipCount : Nat := 512

/-- `a <- 0` (R74). -/
def Spritz.clearWindow (p : Spritz) : Spritz := { p with a := 0 }

/-- SHUFFLE() (R74). -/
def Spritz.shuffle (p : Spritz) : Spritz :=
  ((((p.whip whipCount).crush.whip whipCount).crush).whip whipCount).clearWindow

/-- OUTPUT() (R75): the new `z`, read with the old one. -/
def Spritz.output (p : Spritz) : Spritz :=
  { p with z := p.S.readSum p.j (p.S.readSum p.i (p.S.readSum p.z p.k)) }

/-- `if a == 128: SHUFFLE()` (R85, R87). -/
def Spritz.makeRoom (p : Spritz) : Spritz := if p.windowFull then p.shuffle else p

/-- `a <- a + 1` (R85, R87). -/
def Spritz.countOne (p : Spritz) : Spritz := { p with a := p.a + 1 }

/-- NIBBLE(x) (R85). -/
def Spritz.nibble (x : Nibble) (p : Spritz) : Spritz :=
  (p.makeRoom.swap p.makeRoom.a (nibbleTarget x)).countOne

/-- The body of STOP (R87). -/
def Spritz.stopMark (p : Spritz) : Spritz := p.makeRoom.countOne

/-- The body of FLUSH and the guard of DRIP and XORK: `if a > 0: SHUFFLE()` (R95). -/
def Spritz.flush (p : Spritz) : Spritz := if p.pending then p.shuffle else p

/-- The state that DRIP and XORK leave: guard, UPDATE, OUTPUT (R96, R97); its `z` is the keystream byte. -/
def Spritz.squeeze (p : Spritz) : Spritz := p.flush.update.output

end Sys2Proof.Machine
end

