-- ==== Sys2Proof/Machine/Absorb.lean ====
section
/-! DEFINITION. The absorb commands ABSN, ABSB, STOP (42_absorb.md R85 to R87). -/

namespace Sys2Proof.Machine

/-- ABSN x (R85): `NIBBLE(x); respond(OK, 0x00)`. -/
def execAbsn (x : Nibble) (s : State) : Answer := s.whenReady (fun p => (p.nibble x, 0x00))

/-- ABSB b (R86): the low nibble first, the high nibble second. -/
def execAbsb (b : Byte) (s : State) : Answer :=
  s.whenReady (fun p => ((p.nibble (lowNibble b)).nibble (highNibble b), 0x00))

/-- STOP (R87): the window test comes before the increment (90_conflicts.md C1). -/
def execStop (s : State) : Answer := s.whenReady (fun p => (p.stopMark, 0x00))

end Sys2Proof.Machine
end

