-- ==== Sys2Proof/Machine/Init.lean ====
section
/-! DEFINITION. The INIT command (40_init.md R65). -/

namespace Sys2Proof.Machine

/-- The Spritz state INIT writes: `S[n] = n`, `i = j = k = z = a = 0`, `w = 1` (R65). -/
def Spritz.initial : Spritz where
  S := Memory.ofFn (fun n => n)
  i := 0
  j := 0
  k := 0
  z := 0
  a := 0
  w := 1

/-- The effect of INIT: every field of the Spritz state and `rdy` are written, none is read, `flt` is not
written (R65, R66). -/
def State.initialise (s : State) : State := ({ s with rdy := true }).complete Spritz.initial 0x00

/-- INIT (R65): accepted when `flt = 0`, whatever `rdy` is; refused while `flt = 1` (R128). -/
def execInit (s : State) : Answer := if s.flt then .next s.refuse else .next s.initialise

end Sys2Proof.Machine
end

