-- ==== Sys2Proof/Machine/Output.lean ====
section
/-! DEFINITION. The output commands FLUSH, DRIP, XORK (43_output.md R95 to R97). -/

namespace Sys2Proof.Machine

/-- FLUSH (R95): SHUFFLE if and only if absorbed input is pending. -/
def execFlush (s : State) : Answer := s.whenReady (fun p => (p.flush, 0x00))

/-- DRIP (R96): the data byte is the new `z`. -/
def execDrip (s : State) : Answer := s.whenReady (fun p => (p.squeeze, p.squeeze.z))

/-- XORK b (R97): the state of DRIP, the data byte `b XOR z` with the new `z`. -/
def execXork (b : Byte) (s : State) : Answer := s.whenReady (fun p => (p.squeeze, b ^^^ p.squeeze.z))

end Sys2Proof.Machine
end

