-- ==== Sys2Proof/Machine/Dispatch.lean ====
section
/-! DEFINITION. One arm per command (60_exceptions.md R141, the case of the step function). -/

namespace Sys2Proof.Machine

def exec (i : Instr) (s : State) : Host.Outcome State Fault Refusal :=
  match i with
  -- 40_init.md R65
  | .init => Sys2Proof.Machine.execInit s
  -- 42_absorb.md R85 to R87
  | .absn x => Sys2Proof.Machine.execAbsn x s
  | .absb b => Sys2Proof.Machine.execAbsb b s
  | .stop => Sys2Proof.Machine.execStop s
  -- 43_output.md R95 to R97
  | .flush => Sys2Proof.Machine.execFlush s
  | .drip => Sys2Proof.Machine.execDrip s
  | .xork b => Sys2Proof.Machine.execXork b s

end Sys2Proof.Machine
end

