-- ==== Sys2Proof/Machine/Command.lean ====
section
/-! DEFINITION. What the engine does with one command word, and the machine with one thing the host does
(60_exceptions.md R141, 70_reset_and_hazards.md R145, R146). -/

namespace Sys2Proof.Machine

/-- `step(c)` of R141: a reserved word is refused or raises ERR_ILLEGAL, a command goes to its rule, whose own
admission checks `flt` and then `rdy`; together they give the priority of R129. -/
def command (c : Word) (s : State) : Answer :=
  match decode c with
  | .illegal _ => .next s.illegalWord
  | .command i => exec i s

/-- One thing the host does: a command word, or reset; a reset during a command abandons it, so that neither its
effect nor its response is seen (R146). The host's cursor moves past the item (log entry 5). -/
def hostAct (h : HostAct) (s : State) : Answer :=
  match h with
  | .issue c => command c s
  | .reset => .next (s.hardReset none).advance
  | .resetDuring c => .next (s.hardReset (some c)).advance

end Sys2Proof.Machine
end

