-- ==== Sys2Proof/Machine/Step.lean ====
section
/-! DEFINITION. One step of the machine: the host's next item, or nothing at the end of its program. -/

namespace Sys2Proof.Machine

/-- One step. At the end of the host's program the engine is idle and nothing changes (70_reset_and_hazards.md
R149; log entry 7). -/
def step (s : State) : Host.Outcome State Fault Refusal :=
  match s.fetch with
  | none => .next s
  | some h => hostAct h s

/-- `s` with a word of the opcode table at the host's cursor (log entry 4). -/
def State.withFetchWord (s : State) (nbits w : Nat) : State := s.present (tableWord nbits w)

end Sys2Proof.Machine
end

