-- ==== Sys2Proof/Machine/HostSequences.lean ====
section
/-! DEFINITION. Host software that drives the engine (44_host_sequences.md R105 to R114): the pseudo-commands of
30_encoding.md R58 to R62 as lists of commands, and the procedures that issue them one by one and read the
responses. Nothing here is hardware (00_scope.md R5). -/

namespace Sys2Proof.Machine

/-! ### Pseudo-commands -/

/-- `ABSM b0 ... b(n-1)` (R58). -/
def pseudoAbsm (bs : List Byte) : List Instr := bs.map Instr.absb

/-- `DRIPM n` (R59). -/
def pseudoDripm (n : Nat) : List Instr := List.replicate n Instr.drip

/-- `SQZ n` (R60). -/
def pseudoSqz (n : Nat) : List Instr := Instr.flush :: pseudoDripm n

/-- `XORM b0 ... b(n-1)` (R61). -/
def pseudoXorm (bs : List Byte) : List Instr := Instr.flush :: bs.map Instr.xork

/-- `SKIP n` (R62): the host discards the data. -/
def pseudoSkip (n : Nat) : List Instr := List.replicate n Instr.drip

/-! ### Issuing commands -/

/-- Why a host procedure stopped. -/
inductive HostError where
  /-- The destination is shorter than the source (R109, 60_exceptions.md R140). -/
  | preconditionViolation
  /-- The arguments lie outside the domain the source gives the procedure (R111, item U11): refused. -/
  | outsideDomain
  /-- A response had a status other than OK: the session is lost (60_exceptions.md R131). -/
  | sessionLost (st : Byte)
  deriving DecidableEq, Repr

/-- A host procedure's outcome: the machine it leaves, the bytes it got, and why it stopped, if it did. -/
structure HostRun where
  state : State
  data : List Byte
  error : Option HostError
  deriving DecidableEq, Repr

/-- `issue(C)`: the host presents one command word and the machine takes it (44_host_sequences.md, notation). -/
def State.issue (c : Word) (s : State) : State :=
  match step (s.present c) with
  | .next t => t
  | .fault _ => s
  | .refused _ => s

/-- The response the host received last. -/
def State.lastResponse (s : State) : Word := s.responses.getLast?.getD 0

/-- Issue the commands in order, collecting the data byte of each response; stop at the first status that is not
OK (R116, 60_exceptions.md R131). Where it stops, the bytes are those of the responses before the stop (DESIGN CHOICE: the spec is silent, log entry
16). -/
def issueAll : List Instr → State → HostRun
  | [], s => ⟨s, [], none⟩
  | i :: is, s =>
    let t := s.issue (encode i)
    if statusByte t.lastResponse = Status.ok.code then
      let r := issueAll is t
      ⟨r.state, dataByte t.lastResponse :: r.data, r.error⟩
    else ⟨t, [], some (.sessionLost (statusByte t.lastResponse))⟩

/-- Go on with the machine and the bytes of a procedure that did not stop. After one that did, the bytes it had got
are dropped: only `newStream`, which returns no bytes, is built with this (DESIGN CHOICE, log entry 16). -/
def HostRun.andThen (r : HostRun) (f : State → List Byte → HostRun) : HostRun :=
  match r.error with
  | none => f r.state r.data
  | some e => ⟨r.state, [], some e⟩

/-- The run with the data bytes of its first `n` responses dropped. -/
def HostRun.dropData (n : Nat) (r : HostRun) : HostRun := { r with data := r.data.drop n }

/-- The run with its data bytes written into the front of a buffer of the host's, the rest of which stays. -/
def HostRun.intoBuffer (dst : List Byte) (r : HostRun) : HostRun :=
  { r with data := r.data ++ dst.drop r.data.length }

/-! ### Procedures -/

/-- `absorbMany(bytes)` (R106); no output. -/
def absorbMany (bs : List Byte) (s : State) : HostRun :=
  (issueAll (pseudoAbsm bs) s).dropData bs.length

/-- `dripMany` into a buffer of `n` bytes (R107). -/
def dripMany (n : Nat) (s : State) : HostRun := issueAll (pseudoDripm n) s

/-- `squeezeBytes(n)` (R108). -/
def squeezeBytes (n : Nat) (s : State) : HostRun := (issueAll (pseudoSqz n) s).dropData 1

/-- `xorKeystream(dst, src)` (R109): the lengths are compared before any command is issued; the data is the whole
destination after the call, whose bytes beyond the source's length are not written. Stopped at a response that is
not OK, it returns the destination as far as it was written: the bytes of the OK responses to XORK, the rest as
before (DESIGN CHOICE: the spec is silent, log entry 16). -/
def xorKeystream (dst src : List Byte) (s : State) : HostRun :=
  if dst.length < src.length then ⟨s, dst, some .preconditionViolation⟩
  else ((issueAll (pseudoXorm src) s).dropData 1).intoBuffer dst

/-- `skipKeystream(n)` (R110): the data is dropped. -/
def skipKeystream (n : Nat) (s : State) : HostRun := (issueAll (pseudoSkip n) s).dropData n

/-- The length byte `n AND 0xFF` of `sum` (R112, 90_conflicts.md C4). -/
def lengthByte (n : Nat) : Byte := BitVec.ofNat 8 n

/-- The commands of `sum` for a digest of `n` bytes (R111). -/
def sumCommands (n : Nat) (message : List Byte) : List Instr :=
  Instr.init :: pseudoAbsm message ++ Instr.stop :: Instr.absb (lengthByte n) :: pseudoSqz n

/-- `sum(bits, message)` (R111), refused outside its domain: a multiple of 8 in 8 to 2048. -/
def hashSum (bits : Nat) (message : List Byte) (s : State) : HostRun :=
  if bits % 8 = 0 ∧ 8 ≤ bits ∧ bits ≤ 2048 then
    (issueAll (sumCommands (bits / 8) message) s).dropData (message.length + 4)
  else ⟨s, [], some .outsideDomain⟩

/-- Steps 1 to 4 of `newStream` (R113): an empty `iv` absorbs nothing and issues no STOP. -/
def keyCommands (iv digest : List Byte) : List Instr :=
  Instr.init :: (if iv = [] then [] else pseudoAbsm iv ++ [Instr.stop]) ++ pseudoAbsm digest ++ pseudoSqz 128

/-- One round of step 5 of `newStream` (R113), the new key bytes as its data. -/
def keyRound (keyBytes : List Byte) (s : State) : HostRun :=
  (issueAll (Instr.init :: pseudoAbsm keyBytes ++ Instr.stop :: Instr.absb 128 :: pseudoDripm 128) s).dropData
    (keyBytes.length + 3)

/-- Step 5 of `newStream` (R113). -/
def keyRounds : Nat → List Byte → State → HostRun
  | 0, keyBytes, s => ⟨s, keyBytes, none⟩
  | n + 1, keyBytes, s => (keyRound keyBytes s).andThen (fun t ks => keyRounds n ks t)

/-- `newStream(password, iv, iterations)` (R113) on one engine: the digest is computed first and kept by the host
(R114). The machine it leaves is the stream's; it returns no bytes, stopped or not (log entry 16). -/
def newStream (password iv : List Byte) (iterations : Nat) (s : State) : HostRun :=
  (hashSum 1024 password s).andThen fun s1 digest =>
    ((issueAll (keyCommands iv digest) s1).andThen fun s2 bs =>
      (keyRounds iterations (bs.drop (bs.length - 128)) s2).andThen fun s3 keyBytes =>
        (issueAll (Instr.init :: pseudoAbsm keyBytes) s3).dropData (keyBytes.length + 1))

end Sys2Proof.Machine
end

