-- ==== Sys2Proof/Machine/Assembler.lean ====
section
/-! DEFINITION. The assembler text of 30_encoding.md R56 to R62: one command or pseudo-command per line, to the
commands it stands for. Host software; the engine sees only the words (R63). Details R56 leaves open: log entry
17. -/

namespace Sys2Proof.Machine

/-- A word of a line: plain text, a character in single quotes, or a text in double quotes (R56, R58). -/
inductive Token where
  | word (cs : List Char)
  | quoted (c : Char)
  | text (cs : List Char)
  deriving DecidableEq, Repr

/-- Where the reading of a line stands. -/
inductive LexMode where
  | between
  | inWord (acc : List Char)
  | quoteOpen
  | quoteClose (c : Char)
  | inText (acc : List Char)
  deriving DecidableEq, Repr

/-- Blank space between words: a space or a tab (log entry 17). -/
def isBlank (c : Char) : Bool := c.toNat == 32 || c.toNat == 9

/-- `;` starts a comment (R56). -/
def isComment (c : Char) : Bool := c.toNat == 59

/-- The single quote. -/
def isQuote (c : Char) : Bool := c.toNat == 39

/-- The double quote. -/
def isTextQuote (c : Char) : Bool := c.toNat == 34

/-- A printable ASCII character: codes 0x20 to 0x7E (R56). -/
def isPrintable (c : Char) : Bool := 32 ≤ c.toNat && c.toNat ≤ 126

/-- The code of an ASCII character (R56, 93_implementation_defined.md G3). -/
def asciiCode (c : Char) : Byte := BitVec.ofNat 8 c.toNat

/-- The words of a line, without its comment; none if a quote is left open or holds what it may not. DESIGN CHOICE
(log entry 17): R56 and R58 do not say whether a blank must follow a closing quote; here none need, so that
`XORM 'A'5` and `ABSM 'A''B'` read as two operands each. The model's too: a quote mark inside
a word opens no quotation, and a `;` between quote marks is a character and starts no comment. -/
def lexLine : LexMode → List Char → Option (List Token)
  | .between, [] => some []
  | .inWord acc, [] => some [.word acc.reverse]
  | .quoteOpen, [] => none
  | .quoteClose _, [] => none
  | .inText _, [] => none
  | .between, c :: cs =>
    if isComment c then some []
    else if isBlank c then lexLine .between cs
    else if isQuote c then lexLine .quoteOpen cs
    else if isTextQuote c then lexLine (.inText []) cs
    else lexLine (.inWord [c]) cs
  | .inWord acc, c :: cs =>
    if isComment c then some [.word acc.reverse]
    else if isBlank c then (lexLine .between cs).map (List.cons (.word acc.reverse))
    else lexLine (.inWord (c :: acc)) cs
  | .quoteOpen, c :: cs => if isPrintable c then lexLine (.quoteClose c) cs else none
  | .quoteClose c, q :: cs => if isQuote q then (lexLine .between cs).map (List.cons (.quoted c)) else none
  | .inText acc, c :: cs =>
    if isTextQuote c then (lexLine .between cs).map (List.cons (.text acc.reverse))
    else if isPrintable c then lexLine (.inText (c :: acc)) cs
    else none

/-- The value of a decimal or hexadecimal digit. -/
def digitValue (c : Char) : Option Nat :=
  if 48 ≤ c.toNat ∧ c.toNat ≤ 57 then some (c.toNat - 48)
  else if 65 ≤ c.toNat ∧ c.toNat ≤ 70 then some (c.toNat - 55)
  else if 97 ≤ c.toNat ∧ c.toNat ≤ 102 then some (c.toNat - 87)
  else none

/-- The value of a row of digits in a base, `v` being the value of those before them. -/
def digitsIn (base : Nat) : List Char → Nat → Option Nat
  | [], v => some v
  | c :: cs, v =>
    match digitValue c with
    | some d => if d < base then digitsIn base cs (v * base + d) else none
    | none => none

/-- A number in decimal or `0x` hexadecimal (R56). -/
def number : List Char → Option Nat
  | [] => none
  | '0' :: 'x' :: c :: cs => digitsIn 16 (c :: cs) 0
  | c :: cs => digitsIn 10 (c :: cs) 0

/-- A count operand of a pseudo-command (R59, R60, R62). -/
def countOperand : Token → Option Nat
  | .word cs => number cs
  | .quoted _ => none
  | .text _ => none

/-- A number below a bound, refused above it (R56: never masked). -/
def below (bound : Nat) : Option Nat → Option Nat
  | some n => if n < bound then some n else none
  | none => none

/-- The operand of ABSN: a number up to 15 (R56). -/
def nibbleOperand (t : Token) : Option Nibble := (below 16 (countOperand t)).map (BitVec.ofNat 4)

/-- The operand of ABSB or XORK: a number up to 255 or a quoted character (R56). -/
def byteOperand : Token → Option Byte
  | .word cs => (below 256 (number cs)).map (BitVec.ofNat 8)
  | .quoted c => some (asciiCode c)
  | .text _ => none

/-- A row of byte operands (R58, R61). -/
def byteOperands : List Token → Option (List Byte)
  | [] => some []
  | t :: ts =>
    match byteOperand t, byteOperands ts with
    | some b, some bs => some (b :: bs)
    | _, _ => none

/-- The operands of ABSM: bytes, or one text in double quotes (R58). -/
def messageOperands : List Token → Option (List Byte)
  | [.text cs] => some (cs.map asciiCode)
  | ts => byteOperands ts

/-- A command without operand. -/
def noOperand (i : Instr) : List Token → Option (List Instr)
  | [] => some [i]
  | _ :: _ => none

/-- A line with exactly one operand, read by `f`. -/
def oneOperand {α : Type} (f : Token → Option α) (g : α → List Instr) : List Token → Option (List Instr)
  | [t] => (f t).map g
  | _ => none

/-- The commands of a mnemonic and its operands (R52, R56, R58 to R62). -/
def asmTokens (m : List Char) (ops : List Token) : Option (List Instr) :=
  if m = ['I', 'N', 'I', 'T'] then noOperand .init ops
  else if m = ['A', 'B', 'S', 'N'] then oneOperand nibbleOperand (fun x => [.absn x]) ops
  else if m = ['A', 'B', 'S', 'B'] then oneOperand byteOperand (fun b => [.absb b]) ops
  else if m = ['S', 'T', 'O', 'P'] then noOperand .stop ops
  else if m = ['F', 'L', 'U', 'S', 'H'] then noOperand .flush ops
  else if m = ['D', 'R', 'I', 'P'] then noOperand .drip ops
  else if m = ['X', 'O', 'R', 'K'] then oneOperand byteOperand (fun b => [.xork b]) ops
  else if m = ['A', 'B', 'S', 'M'] then (messageOperands ops).map pseudoAbsm
  else if m = ['D', 'R', 'I', 'P', 'M'] then oneOperand countOperand pseudoDripm ops
  else if m = ['S', 'Q', 'Z'] then oneOperand countOperand pseudoSqz ops
  else if m = ['X', 'O', 'R', 'M'] then (byteOperands ops).map pseudoXorm
  else if m = ['S', 'K', 'I', 'P'] then oneOperand countOperand pseudoSkip ops
  else none

/-- The commands of one line; an empty line or a comment stands for none (R56). -/
def asmLine (l : List Char) : Option (List Instr) :=
  match lexLine .between l with
  | none => none
  | some [] => some []
  | some (.word m :: ops) => asmTokens m ops
  | some (.quoted _ :: _) => none
  | some (.text _ :: _) => none

/-- The words of a program, line after line (R57); none if a line is rejected. -/
def assemble : List (List Char) → Option (List Word)
  | [] => some []
  | l :: ls =>
    match asmLine l, assemble ls with
    | some is, some ws => some (is.map encode ++ ws)
    | _, _ => none

end Sys2Proof.Machine
end

