-- ==== Sys2Proof/Safety.lean ====
section
/-! DEFINITION. The invariants of 10_state.md section 6 and the terms claims use: legal responses, good runs
(70_reset_and_hazards.md R149), what a run's responses are. -/

namespace Sys2Proof.Machine

/-- `S` is a permutation of 0..255: for every byte there is exactly one address that holds it (R23). -/
def Memory.isPerm (m : Memory) : Prop := ∀ b : Byte, ∃! n : Byte, m.read n = b

/-- `w[0] = 1` (R24). -/
abbrev Spritz.strideOdd (p : Spritz) : Prop := p.w.getLsbD 0 = true

/-- `0 <= a <= 128` (R26). -/
abbrev Spritz.windowBounded (p : Spritz) : Prop := p.a ≤ 128

/-- The three invariants of the Spritz state (R23, R24, R26). -/
structure Spritz.Inv (p : Spritz) : Prop where
  perm : p.S.isPerm
  odd : p.strideOdd
  window : p.windowBounded

/-- A response the engine may produce: status 0x00 to 0x03, data 0x00 unless the status is OK (R50, R51). -/
abbrev legalResponse (r : Word) : Prop := statusByte r ≤ 3 ∧ (statusByte r ≠ 0 → dataByte r = 0)

/-- While a Spritz state exists, it satisfies the three invariants (10_state.md section 6). -/
def State.SpritzInv (s : State) : Prop := s.rdy = true → s.spritz.Inv

/-- What the model's data looks like in every state of a run: the memory canonical (log entry 10), the cursor in the
program (R20), every response delivered a legal one (R50, R51). -/
structure State.Form (s : State) : Prop where
  canonical : s.spritz.S.wf
  cursor : s.cur ≤ s.prog.length
  legal : ∀ r ∈ s.responses, legalResponse r

/-- The next thing the host does is to assert reset, between commands or during one (R145, R146). -/
def State.resetNext (s : State) : Prop := s.fetch = some .reset ∨ ∃ c, s.fetch = some (.resetDuring c)

/-- The command or word answered by exactly one response `{st, d}`: it is appended, the cursor moves on by one, and
the host's program and the model's count of resets stay (R20, R49). -/
structure State.Answered (s t : State) (st : Status) (d : Byte) : Prop where
  responses : t.responses = s.responses ++ [responseWord st d]
  cur : t.cur = s.cur + 1
  prog : t.prog = s.prog
  resets : t.resets = s.resets

/-- The engine answers OK and a Spritz state exists after it (R21, R50). -/
structure State.Executed (s t : State) (d : Byte) : Prop where
  answered : s.Answered t .ok d
  rdy : t.rdy = true
  flt : t.flt = false

/-- The six index registers of two Spritz states are equal. -/
structure Spritz.SameRegisters (p q : Spritz) : Prop where
  i : q.i = p.i
  j : q.j = p.j
  k : q.k = p.k
  z : q.z = p.z
  a : q.a = p.a
  w : q.w = p.w

/-- Every entry of `S` outside a set of addresses reads as before. -/
def Spritz.SameOutside (p q : Spritz) (stored : Byte → Prop) : Prop :=
  ∀ e : Byte, ¬ stored e → q.S.read e = p.S.read e

/-- One absorbed nibble or one stop mark (42_absorb.md R88). -/
inductive AbsorbMark where
  | nibble (x : Nibble)
  | stop
  deriving DecidableEq, Repr

/-- What the mark does to the Spritz state: NIBBLE (R85) or the body of STOP (R87). -/
def AbsorbMark.apply : AbsorbMark → Spritz → Spritz
  | .nibble x, p => p.nibble x
  | .stop, p => p.stopMark

/-- The marks in order. -/
def absorbMarks : List AbsorbMark → Spritz → Spritz
  | [], p => p
  | m :: ms, p => absorbMarks ms (m.apply p)

/-- How many of the marks find the window full and so run SHUFFLE (R77). -/
def shufflesRun : List AbsorbMark → Spritz → Nat
  | [], _ => 0
  | m :: ms, p => (if p.a = 128 then 1 else 0) + shufflesRun ms (m.apply p)

/-- The nibbles and stop marks a command absorbs, in order (R85 to R87). -/
def commandMarks : Instr → List AbsorbMark
  | .absn x => [.nibble x]
  | .absb b => [.nibble (lowNibble b), .nibble (highNibble b)]
  | .stop => [.stop]
  | .init => []
  | .flush => []
  | .drip => []
  | .xork _ => []

/-- Whether the command makes the test `a > 0` before anything else (R77, R95 to R97). -/
def commandGuarded : Instr → Bool
  | .flush => true
  | .drip => true
  | .xork _ => true
  | .init => false
  | .absn _ => false
  | .absb _ => false
  | .stop => false

/-- How many SHUFFLEs the command runs when it executes from a Spritz state: one per mark that finds the window full,
one if it is guarded and input is pending (41_sequencer_microops.md R77, R79). -/
def commandShuffles (i : Instr) (p : Spritz) : Nat :=
  shufflesRun (commandMarks i) p + (if commandGuarded i = true ∧ p.pending = true then 1 else 0)

/-- `k` steps of the machine, from one state to a later one. -/
def runsTo : Nat → State → State → Prop
  | 0, s, t => s = t
  | k + 1, s, t => ∃ u, step s = .next u ∧ runsTo k u t

/-- Every response has status OK: a good run (R149). -/
abbrev goodResponses (rs : List Word) : Prop := ∀ r ∈ rs, statusByte r = Status.ok.code

/-- The state after the host has issued the words in order, whatever the statuses. -/
def State.issueWords : List Word → State → State
  | [], s => s
  | c :: cs, s => State.issueWords cs (s.issue c)

/-- The responses to the words, in order. -/
def State.replies (cs : List Word) (s : State) : List Word := (s.issueWords cs).responses.drop s.responses.length

end Sys2Proof.Machine
end

