-- ==== Sys2Proof/Certificates/Slice0/Obligations.lean ====
section
/-! DEFINITION. The statements about the machine, for the provers. Each docstring names the rule of spec/ it
formalises. -/

open Sys2Proof Sys2Proof.Machine

/-! ### Encoding and decoding -/

/-- R52, R53: decoding the word of a command gives that command back, every operand at every value. -/
def Obligations.DecodeOfEncodeIsTheCommand : Prop :=
  ∀ i : Instr, decode (encode i) = .command i

/-- R52, R53: each legal word has one meaning, and the encoder gives that word. -/
def Obligations.EncodeOfDecodeIsTheWord : Prop :=
  ∀ (c : Word) (i : Instr), decode c = .command i → encode i = c

/-- R52: the rows of the opcode map are disjoint, the decoder of R53 reads a command exactly from the words some row
selects, the command it reads belongs to that row and has the row's operand bits, and the rows match 532 words. -/
def Obligations.DecoderAgreesWithOpcodeMap : Prop :=
  (∀ c : Word, ∀ r ∈ opcodeMap, ∀ r' ∈ opcodeMap, r.selects c = true → r'.selects c = true → r = r') ∧
  (∀ c : Word, wellFormedWord c = true ↔ ∃ i, decode c = .command i) ∧
  (∀ (c : Word) (i : Instr), decode c = .command i → i.row ∈ opcodeMap ∧ i.row.selects c = true) ∧
  (∀ (c : Word) (x : Nibble), decode c = .command (.absn x) → x = c.extractLsb' 0 4) ∧
  (∀ (c : Word) (b : Byte), decode c = .command (.absb b) ∨ decode c = .command (.xork b) → b = c.extractLsb' 0 8) ∧
  (Finset.univ.filter (fun c : Word => wellFormedWord c = true)).card = 532

/-- R53: the decoder reads the commands as its seven lines say; every other word is reserved, the reserved words are
exactly those no row of R52 selects and those R53 lists, there are 65004 of them, and a reserved word given to an
engine that is not faulted raises ERR_ILLEGAL and changes no Spritz state. -/
def Obligations.ReservedWordsAreIllegal : Prop :=
  (∀ c : Word,
    (decode c = .command .init ↔ opField c = 0x01 ∧ immField c = 0x00) ∧
    (∀ x, decode c = .command (.absn x) ↔
      opField c = 0x02 ∧ (immField c).extractLsb' 4 4 = 0 ∧ (immField c).extractLsb' 0 4 = x) ∧
    (∀ b, decode c = .command (.absb b) ↔ opField c = 0x03 ∧ immField c = b) ∧
    (decode c = .command .stop ↔ opField c = 0x04 ∧ immField c = 0x00) ∧
    (decode c = .command .flush ↔ opField c = 0x05 ∧ immField c = 0x00) ∧
    (decode c = .command .drip ↔ opField c = 0x06 ∧ immField c = 0x00) ∧
    (∀ b, decode c = .command (.xork b) ↔ opField c = 0x07 ∧ immField c = b)) ∧
  (∀ c : Word, (∃ why, decode c = .illegal why) ↔ ¬ ∃ i, decode c = .command i) ∧
  (∀ c : Word, (∃ why, decode c = .illegal why) ↔ wellFormedWord c = false) ∧
  (∀ c : Word, (∃ why, decode c = .illegal why) ↔
    (opField c = 0x00 ∨ 0x08 ≤ opField c ∨
      ((opField c = 0x01 ∨ opField c = 0x04 ∨ opField c = 0x05 ∨ opField c = 0x06) ∧ immField c ≠ 0x00) ∨
      (opField c = 0x02 ∧ (immField c).extractLsb' 4 4 ≠ 0))) ∧
  (Finset.univ.filter (fun c : Word => wellFormedWord c = false)).card = 65004 ∧
  (∀ (c : Word) (s : State), wellFormedWord c = false → s.flt = false →
    ∃ t, command c s = .next t ∧ s.Answered t .errIllegal 0x00 ∧ t.flt = true ∧ t.rdy = s.rdy ∧
      t.spritz = s.spritz)

/-- R52, R53, and the words of 95_test_vectors.md section 3.1: sample words decode as the map says. -/
def Obligations.SampleWordsDecode : Prop :=
  decode 0x0100 = .command .init ∧ decode 0x0205 = .command (.absn 5) ∧ decode 0x0341 = .command (.absb 0x41) ∧
  decode 0x0400 = .command .stop ∧ decode 0x0500 = .command .flush ∧ decode 0x0600 = .command .drip ∧
  decode 0x07FF = .command (.xork 0xFF) ∧ (decode 0x0000).instr? = none ∧ (decode 0x0101).instr? = none ∧
  (decode 0x0210).instr? = none ∧ (decode 0x8100).instr? = none

/-! ### Steps -/

/-- R141: where the host presents a word that decodes to a command, the step is that command's meaning, and the
same for a word of the opcode table put at the host's cursor. -/
def Obligations.StepRunsTheDecodedCommand : Prop :=
  (∀ (s : State) (c : Word) (i : Instr),
    s.fetch = some (.issue c) → decode c = .command i → step s = exec i s) ∧
  (∀ (s : State) (w : Nat) (i : Instr), decodeTableWord 16 w = some i →
    step (s.withFetchWord 16 w) = exec i (s.withFetchWord 16 w))

/-- R149 and log entry 7: at the end of the host's program the engine is idle. -/
def Obligations.StepIdlesAtTheEndOfTheProgram : Prop :=
  ∀ s : State, s.prog.length ≤ s.cur → step s = .next s

/-- R126, R128, R155: from every state, reachable or not, the machine goes on: no step ends in a fault or a
refusal of the model. -/
def Obligations.EveryStepAnswers : Prop :=
  ∀ s : State, ∃ t, step s = .next t

/-- R49: every word the engine takes is answered by exactly one response, appended after the earlier ones, with a
status code of R50 and no data in an error response; the cursor moves on by one. -/
def Obligations.OneResponsePerWord : Prop :=
  ∀ (s t : State) (c : Word), s.fetch = some (.issue c) → step s = .next t →
    ∃ r, t.responses = s.responses ++ [r] ∧ legalResponse r ∧ t.cur = s.cur + 1 ∧ t.prog = s.prog

/-- R51: the data byte of a response, per command. -/
def Obligations.DataByteOfAResponse : Prop :=
  ∀ (s t : State) (c : Word), command c s = .next t →
    ∃ r, t.responses = s.responses ++ [r] ∧
      (statusByte r ≠ Status.ok.code → dataByte r = 0x00) ∧
      (statusByte r = Status.ok.code →
        ∃ i, decode c = .command i ∧
          match i with
          | .init => dataByte r = 0x00
          | .absn _ => dataByte r = 0x00
          | .absb _ => dataByte r = 0x00
          | .stop => dataByte r = 0x00
          | .flush => dataByte r = 0x00
          | .drip => dataByte r = t.spritz.z
          | .xork b => dataByte r = b ^^^ t.spritz.z)

/-! ### Micro-operations -/

/-- R70: SWAP exchanges two entries and touches nothing else; SWAP(x, x) changes nothing. -/
def Obligations.SwapExchangesTwoEntries : Prop :=
  ∀ (p : Spritz) (x y : Byte),
    (p.swap x y).S.read x = p.S.read y ∧ (p.swap x y).S.read y = p.S.read x ∧
    p.SameOutside (p.swap x y) (fun e => e = x ∨ e = y) ∧ p.SameRegisters (p.swap x y) ∧
    p.SameOutside (p.swap x x) (fun _ => False)

/-- R71: the new `i`, `j`, `k` and `S` of UPDATE, from the state before it; `z`, `a`, `w` stay. -/
def Obligations.UpdateRunsItsFourLines : Prop :=
  ∀ p : Spritz,
    let i := p.i + p.w
    let j := p.k + p.S.read (p.j + p.S.read i)
    let k := i + p.k + p.S.read j
    p.update.i = i ∧ p.update.j = j ∧ p.update.k = k ∧
    p.update.S.read i = p.S.read j ∧ p.update.S.read j = p.S.read i ∧
    p.SameOutside p.update (fun e => e = i ∨ e = j) ∧
    p.update.z = p.z ∧ p.update.a = p.a ∧ p.update.w = p.w

/-- R72: WHIP(r) is `r` UPDATEs, all with the old `w`, and then `w + 2`; an odd `w` stays odd. -/
def Obligations.WhipUpdatesThenAddsTwo : Prop :=
  ∀ (r : Nat) (p : Spritz),
    p.whip r = { Spritz.update^[r] p with w := p.w + 2 } ∧ (∀ n, (Spritz.update^[n] p).w = p.w) ∧
    (p.strideOdd → (p.whip r).strideOdd)

/-- R73: CRUSH leaves the lower entry of every pair (v, 255 - v) at `v` and the higher one at `255 - v`, writes no
register, and leaves every pair strictly ascending when `S` is a permutation. -/
def Obligations.CrushOrdersEveryMirrorPair : Prop :=
  ∀ p : Spritz,
    (∀ v : Byte, v < 128 →
      p.crush.S.read v = (if p.S.read v > p.S.read (255 - v) then p.S.read (255 - v) else p.S.read v) ∧
      p.crush.S.read (255 - v) = (if p.S.read v > p.S.read (255 - v) then p.S.read v else p.S.read (255 - v))) ∧
    p.SameRegisters p.crush ∧
    (p.S.isPerm → ∀ v : Byte, v < 128 → p.crush.S.read v < p.crush.S.read (255 - v))

/-- R74: SHUFFLE is whip, crush, whip, crush, whip and `a <- 0`; it adds 6 to `w`, leaves `i` and `z`, and reads
neither `a` nor `z`. -/
def Obligations.ShuffleWhipsAndCrushes : Prop :=
  ∀ p : Spritz,
    p.shuffle = { ((((p.whip 512).crush).whip 512).crush).whip 512 with a := 0 } ∧
    p.shuffle.w = p.w + 6 ∧ p.shuffle.i = p.i ∧ p.shuffle.z = p.z ∧
    (∀ b : Byte, Spritz.shuffle { p with a := b } = p.shuffle) ∧
    (∀ b : Byte, Spritz.shuffle { p with z := b } = { p.shuffle with z := b })

/-- R75: OUTPUT reads three nested entries, writes `z` and nothing else. -/
def Obligations.OutputWritesOnlyZ : Prop :=
  ∀ p : Spritz,
    p.output = { p with z := p.S.read (p.j + p.S.read (p.i + p.S.read (p.z + p.k))) }

/-- R78: WHIP(512) and SHUFFLE leave `i` as they found it, so `i` stays 0 from an INIT on until a DRIP or an
XORK. -/
def Obligations.WhipLeavesIAsItFoundIt : Prop :=
  (∀ p : Spritz, (p.whip 512).i = p.i ∧ p.shuffle.i = p.i) ∧
  (∀ s t : State, s.flt = false → exec .init s = .next t → t.spritz.i = 0) ∧
  (∀ (s t : State) (i : Instr), i ≠ .drip → (∀ b, i ≠ .xork b) → s.spritz.i = 0 →
    exec i s = .next t → t.spritz.i = 0)

/-- R80: the micro-operations preserve the invariants on their own. -/
def Obligations.MicroOperationsPreserveInvariants : Prop :=
  ∀ p : Spritz,
    (p.S.isPerm →
      (∀ x y, (p.swap x y).S.isPerm) ∧ p.update.S.isPerm ∧ p.crush.S.isPerm ∧ (∀ r, (p.whip r).S.isPerm) ∧
      p.shuffle.S.isPerm) ∧
    (p.strideOdd → (∀ r, (p.whip r).strideOdd) ∧ p.shuffle.strideOdd) ∧
    ((∀ x y, (p.swap x y).a = p.a) ∧ p.update.a = p.a ∧ p.crush.a = p.a ∧ (∀ r, (p.whip r).a = p.a) ∧
      p.output.a = p.a ∧ p.shuffle.a = 0) ∧
    p.output = { p with z := p.output.z }

/-! ### Commands: what each does when the engine admits it -/

/-- R65: INIT, whatever `rdy` is and whatever `S` and the registers hold; while `flt = 1` it writes nothing. -/
def Obligations.InitCreatesTheSpritzState : Prop :=
  encode .init = 0x0100 ∧
  (∀ s : State, s.flt = true →
    ∃ t, exec .init s = .next t ∧ s.Answered t .errFaulted 0x00 ∧ t.flt = true ∧ t.rdy = s.rdy ∧
      t.spritz = s.spritz) ∧
  ∀ s : State, s.flt = false →
    ∃ t, exec .init s = .next t ∧ s.Executed t 0x00 ∧ (∀ n : Byte, t.spritz.S.read n = n) ∧
      t.spritz.i = 0 ∧ t.spritz.j = 0 ∧ t.spritz.k = 0 ∧ t.spritz.z = 0 ∧ t.spritz.a = 0 ∧ t.spritz.w = 1

/-- R66: the states after INIT from any two states are equal in every architectural field, all later responses are
equal, and DRIPs right after INIT return 04 14 45 ce. -/
def Obligations.InitErasesHistory : Prop :=
  ∀ s s' : State, s.flt = false → s'.flt = false →
    ∃ t t', exec .init s = .next t ∧ exec .init s' = .next t' ∧
      t.spritz = t'.spritz ∧ t.rdy = t'.rdy ∧ t.flt = t'.flt ∧
      (∀ cs : List Word, t.replies cs = t'.replies cs) ∧
      t.replies [0x0600, 0x0600, 0x0600, 0x0600] = [0x0004, 0x0014, 0x0045, 0x00CE]

/-- R85: ABSN, with the SHUFFLE before it when the window is full. -/
def Obligations.AbsnAbsorbsOneNibble : Prop :=
  (∀ x : Nibble, encode (.absn x) = BitVec.ofNat 16 (0x0200 + x.toNat)) ∧
  ∀ (s : State) (x : Nibble), s.flt = false → s.rdy = true →
    let q := if s.spritz.a = 128 then s.spritz.shuffle else s.spritz
    let e : Byte := 128 + x.setWidth 8
    ∃ t, exec (.absn x) s = .next t ∧ s.Executed t 0x00 ∧
      t.spritz.S.read q.a = q.S.read e ∧ t.spritz.S.read e = q.S.read q.a ∧
      q.SameOutside t.spritz (fun n => n = q.a ∨ n = e) ∧
      t.spritz.a = q.a + 1 ∧ t.spritz.i = q.i ∧ t.spritz.j = q.j ∧ t.spritz.k = q.k ∧ t.spritz.w = q.w ∧
      t.spritz.z = s.spritz.z

/-- R86: ABSB is ABSN of the low nibble and then ABSN of the high nibble, with one response instead of two. -/
def Obligations.AbsbIsLowThenHighNibble : Prop :=
  (∀ b : Byte, encode (.absb b) = BitVec.ofNat 16 (0x0300 + b.toNat)) ∧
  ∀ (s : State) (b : Byte), s.flt = false → s.rdy = true →
    ∃ u v t, exec (.absn (b.extractLsb' 0 4)) s = .next u ∧ exec (.absn (b.extractLsb' 4 4)) u = .next v ∧
      exec (.absb b) s = .next t ∧ s.Executed t 0x00 ∧ t.spritz = v.spritz

/-- R87: STOP, whose test comes before the increment. -/
def Obligations.StopCountsOneMark : Prop :=
  encode .stop = 0x0400 ∧
  ∀ s : State, s.flt = false → s.rdy = true →
    let q := if s.spritz.a = 128 then s.spritz.shuffle else s.spritz
    ∃ t, exec .stop s = .next t ∧ s.Executed t 0x00 ∧ t.spritz = { q with a := q.a + 1 } ∧
      (s.spritz.a ≤ 128 → 1 ≤ t.spritz.a ∧ t.spritz.a ≤ 128)

/-- R95: FLUSH runs SHUFFLE if and only if absorbed input is pending. -/
def Obligations.FlushShufflesPendingInput : Prop :=
  encode .flush = 0x0500 ∧
  ∀ s : State, s.flt = false → s.rdy = true →
    ∃ t, exec .flush s = .next t ∧ s.Executed t 0x00 ∧ t.spritz.a = 0 ∧ t.spritz.z = s.spritz.z ∧
      (0 < s.spritz.a → t.spritz = s.spritz.shuffle) ∧ (s.spritz.a = 0 → t.spritz = s.spritz)

/-- R96: DRIP, guard then UPDATE then OUTPUT; the data byte is the new `z`, and `a` is 0 after it. -/
def Obligations.DripReturnsTheNewZ : Prop :=
  encode .drip = 0x0600 ∧
  ∀ s : State, s.flt = false → s.rdy = true →
    let q := if 0 < s.spritz.a then s.spritz.shuffle else s.spritz
    let i := q.i + q.w
    let j := q.k + q.S.read (q.j + q.S.read i)
    let k := i + q.k + q.S.read j
    ∃ t, exec .drip s = .next t ∧ s.Executed t t.spritz.z ∧
      t.spritz.i = i ∧ t.spritz.j = j ∧ t.spritz.k = k ∧ t.spritz.a = 0 ∧ t.spritz.w = q.w ∧
      t.spritz.S.read i = q.S.read j ∧ t.spritz.S.read j = q.S.read i ∧
      q.SameOutside t.spritz (fun e => e = i ∨ e = j) ∧
      t.spritz.z = t.spritz.S.read (j + t.spritz.S.read (i + t.spritz.S.read (s.spritz.z + k)))

/-- R97: XORK leaves the state of DRIP, whatever its operand, and returns the keystream byte XORed with it. -/
def Obligations.XorkXorsTheKeystreamByte : Prop :=
  (∀ b : Byte, encode (.xork b) = BitVec.ofNat 16 (0x0700 + b.toNat)) ∧
  ∀ s : State, s.flt = false → s.rdy = true →
    ∃ u, exec .drip s = .next u ∧ s.Executed u u.spritz.z ∧
      ∀ b : Byte, ∃ t, exec (.xork b) s = .next t ∧ s.Executed t (b ^^^ u.spritz.z) ∧ t.spritz = u.spritz

/-! ### Frames: what a command leaves unchanged, whether it is executed or refused -/

/-- R87, R89, R95: STOP and FLUSH, where they run no SHUFFLE, change no entry of `S` and none of i, j, k, z, w. -/
def Obligations.StopAndFlushFrame : Prop :=
  ∀ s t : State,
    (s.spritz.a ≠ 128 ∧ exec .stop s = .next t ∨ s.spritz.a = 0 ∧ exec .flush s = .next t) →
      s.spritz.SameOutside t.spritz (fun _ => False) ∧ t.spritz.i = s.spritz.i ∧ t.spritz.j = s.spritz.j ∧
      t.spritz.k = s.spritz.k ∧ t.spritz.z = s.spritz.z ∧ t.spritz.w = s.spritz.w ∧ t.rdy = s.rdy ∧
      t.prog = s.prog ∧ t.resets = s.resets

/-- R85, R86, R89: ABSN and ABSB, where they run no SHUFFLE, change of `S` only the addresses they swap, and none of
i, j, k, z, w. -/
def Obligations.AbsorbingCommandsFrame : Prop :=
  (∀ (s t : State) (x : Nibble), s.spritz.a ≠ 128 → exec (.absn x) s = .next t →
    s.spritz.SameOutside t.spritz (fun e => e = s.spritz.a ∨ e = nibbleTarget x) ∧
    t.spritz.i = s.spritz.i ∧ t.spritz.j = s.spritz.j ∧ t.spritz.k = s.spritz.k ∧ t.spritz.z = s.spritz.z ∧
    t.spritz.w = s.spritz.w ∧ t.rdy = s.rdy ∧ t.prog = s.prog ∧ t.resets = s.resets) ∧
  (∀ (s t : State) (b : Byte), s.spritz.a ≠ 128 → s.spritz.a ≠ 127 → exec (.absb b) s = .next t →
    s.spritz.SameOutside t.spritz (fun e => e = s.spritz.a ∨ e = s.spritz.a + 1 ∨
      e = nibbleTarget (lowNibble b) ∨ e = nibbleTarget (highNibble b)) ∧
    t.spritz.i = s.spritz.i ∧ t.spritz.j = s.spritz.j ∧ t.spritz.k = s.spritz.k ∧ t.spritz.z = s.spritz.z ∧
    t.spritz.w = s.spritz.w ∧ t.rdy = s.rdy ∧ t.prog = s.prog ∧ t.resets = s.resets)

/-- R96, R97: DRIP and XORK, where nothing is pending, change of `S` only the two entries UPDATE swaps, and neither
`a` nor `w`. -/
def Obligations.OutputCommandsFrame : Prop :=
  ∀ s t : State, s.spritz.a = 0 →
    (exec .drip s = .next t ∨ ∃ b, exec (.xork b) s = .next t) →
      s.spritz.SameOutside t.spritz (fun e => e = s.spritz.update.i ∨ e = s.spritz.update.j) ∧
      t.spritz.a = s.spritz.a ∧ t.spritz.w = s.spritz.w ∧ t.rdy = s.rdy ∧ t.prog = s.prog ∧ t.resets = s.resets

/-- R65 and log entries 4 and 6: INIT leaves the fault flag, the host's program and the responses already delivered. -/
def Obligations.InitFrame : Prop :=
  ∀ s t : State, exec .init s = .next t →
    t.flt = s.flt ∧ t.prog = s.prog ∧ t.resets = s.resets ∧
    (∃ r, t.responses = s.responses ++ [r]) ∧ (s.flt = true → t.spritz = s.spritz ∧ t.rdy = s.rdy)

/-! ### Faults, refusal, reset -/

/-- R127: `raise Fault(code)` sets `flt`, keeps all else and responds `{code, 0x00}`. -/
def Obligations.RaiseFaultSetsOnlyFlt : Prop :=
  ∀ (s : State) (code : Status),
    s.Answered (s.raiseFault code) code 0x00 ∧ (s.raiseFault code).flt = true ∧
    (s.raiseFault code).spritz = s.spritz ∧ (s.raiseFault code).rdy = s.rdy

/-- R125, R127, R148: a command other than INIT given before any Spritz state exists raises ERR_NOTINIT and has no
other effect. -/
def Obligations.CommandsBeforeInitFault : Prop :=
  ∀ (s : State) (i : Instr), s.flt = false → s.rdy = false → i ≠ .init →
    ∃ t, exec i s = .next t ∧ s.Answered t .errNotInit 0x00 ∧ t.flt = true ∧ t.rdy = false ∧ t.spritz = s.spritz

/-- R128: while `flt = 1` every word, legal or reserved, is answered ERR_FAULTED and changes nothing. -/
def Obligations.FaultedEngineRefusesEverything : Prop :=
  ∀ (s : State) (c : Word), s.flt = true →
    ∃ t, command c s = .next t ∧ s.Answered t .errFaulted 0x00 ∧ t.flt = true ∧ t.rdy = s.rdy ∧
      t.spritz = s.spritz

/-- R129: exactly one status is reported per word, by the priority faulted, illegal, not initialised, executed. -/
def Obligations.StatusFollowsThePriority : Prop :=
  ∀ (s : State) (c : Word),
    ∃ t d st, command c s = .next t ∧ s.Answered t st d ∧
      st = (if s.flt = true then Status.errFaulted
        else if wellFormedWord c = false then Status.errIllegal
        else if s.rdy = false ∧ c ≠ 0x0100 then Status.errNotInit
        else Status.ok)

/-- R127, R141: whether a word is refused, and with which response, depends on the word and the two flags alone:
nothing of the Spritz state shows in an error response or in a status. -/
def Obligations.RefusalsRevealNoSpritzState : Prop :=
  ∀ (s s' t t' : State) (c : Word), s.rdy = s'.rdy → s.flt = s'.flt →
    command c s = .next t → command c s' = .next t' →
    ∃ r r', t.responses = s.responses ++ [r] ∧ t'.responses = s'.responses ++ [r'] ∧
      statusByte r = statusByte r' ∧ (statusByte r ≠ Status.ok.code → r = r')

/-- R130: a word answered with a status other than OK leaves the Spritz state and `rdy` as they were. -/
def Obligations.FaultNeverCorruptsTheSpritzState : Prop :=
  ∀ (s t : State) (c : Word) (r : Word), command c s = .next t → t.responses = s.responses ++ [r] →
    statusByte r ≠ Status.ok.code → t.spritz = s.spritz ∧ t.rdy = s.rdy ∧ t.flt = true

/-- R145, R146, and log entry 5 for the cursor: reset, between commands or during one, clears both flags and
delivers no response, whatever the state and whatever values the Spritz state is left with. -/
def Obligations.ResetClearsFlagsWithoutResponse : Prop :=
  ∀ s : State, s.resetNext →
    ∃ t, step s = .next t ∧ t.rdy = false ∧ t.flt = false ∧ t.responses = s.responses ∧ t.prog = s.prog ∧
      t.cur = s.cur + 1

/-- R18, R19, R145: over all steps, only reset clears `rdy` or `flt`, only INIT sets `rdy`, and only a word answered
with ERR_ILLEGAL or ERR_NOTINIT sets `flt`. -/
def Obligations.OnlyResetClearsTheFlags : Prop :=
  ∀ s t : State, step s = .next t →
    (s.rdy = true → t.rdy = false → s.resetNext) ∧
    (s.flt = true → t.flt = false → s.resetNext) ∧
    (s.rdy = false → t.rdy = true → s.fetch = some (.issue 0x0100)) ∧
    (s.flt = false → t.flt = true → ∃ c r, s.fetch = some (.issue c) ∧ t.responses = s.responses ++ [r] ∧
      (r = responseWord .errIllegal 0x00 ∨ r = responseWord .errNotInit 0x00))

/-- R27, R147: the values the spec gives for reset, and the core's reset state is the one that holds them. -/
def Obligations.ResetLeavesTheFlagsClear : Prop :=
  State.reset.rdy = false ∧ State.reset.flt = false ∧ State.reset.cur = 0 ∧ State.reset.responses = [] ∧
  core.reset = State.reset

/-- R148, R65: INIT given right after reset is answered OK and creates the Spritz state. -/
def Obligations.InitAfterResetIsAccepted : Prop :=
  ∃ t, step (State.reset.withFetchWord 16 0x0100) = .next t ∧ t.responses = [0x0000] ∧ t.rdy = true ∧
    t.flt = false ∧ ∀ n : Byte, t.spritz.S.read n = n

/-! ### Whole-machine rules -/

/-- The two invariants of the machine hold at reset: the Spritz invariants, there being no Spritz state yet, and the
form of the model's data (log entries 2, 4, 10). -/
def Obligations.InvariantsHoldAtReset : Prop := State.reset.SpritzInv ∧ State.reset.Form

/-- R23, R24 (and the bound of R26 between commands): every step, from every state, reachable or not, keeps the Spritz
invariants: while a Spritz state exists `S` is a permutation, `w` is odd and `a` is at most 128. -/
def Obligations.EveryStepKeepsTheSpritzInvariants : Prop :=
  ∀ s t : State, s.SpritzInv → step s = .next t → t.SpritzInv

/-- Log entry 10, R20, R50, R51: every step, from every state, keeps the memory canonical, the cursor within the host's
program and every response delivered a legal one. -/
def Obligations.EveryStepKeepsTheForm : Prop :=
  ∀ s t : State, s.Form → step s = .next t → t.Form

/-- R15, R89, R95: `z` changes only by INIT, DRIP or XORK, or by reset. -/
def Obligations.OnlyOutputCommandsWriteZ : Prop :=
  ∀ s t : State, step s = .next t → t.spritz.z ≠ s.spritz.z →
    s.resetNext ∨
    ∃ c, s.fetch = some (.issue c) ∧
      (decode c = .command .init ∨ decode c = .command .drip ∨ ∃ b, decode c = .command (.xork b))

/-- R79: no command runs more than one SHUFFLE, ABSB making its test twice and running one only if it is entered with
`a` 127 or 128. The count is of the marks the command absorbs and of its guard; an executed absorb command leaves what
those marks leave, a guarded one runs on from SHUFFLE exactly where the guard counts one; and an executed command
other than INIT raises `w` by 6 per SHUFFLE counted, a refused one leaves `w`. -/
def Obligations.AtMostOneShufflePerCommand : Prop :=
  (∀ (p : Spritz) (i : Instr), commandShuffles i p ≤ 1) ∧
  (∀ (p : Spritz) (b : Byte), commandShuffles (.absb b) p = if p.a = 127 ∨ p.a = 128 then 1 else 0) ∧
  ∀ (s t : State) (i : Instr), i ≠ .init → exec i s = .next t →
    (s.flt = false → s.rdy = true →
      t.spritz.w = s.spritz.w + 6 * BitVec.ofNat 8 (commandShuffles i s.spritz) ∧
      (commandMarks i ≠ [] → t.spritz = absorbMarks (commandMarks i) s.spritz) ∧
      (commandGuarded i = true →
        exec i { s with spritz := if commandShuffles i s.spritz = 1 then s.spritz.shuffle else s.spritz } =
          .next t)) ∧
    (¬ (s.flt = false ∧ s.rdy = true) → t.spritz = s.spritz)

/-- R88: the number of SHUFFLEs that `t >= 1` nibbles and stop marks run from `a = 0`, and the `a` they leave; each
SHUFFLE adds 6 to `w`. -/
def Obligations.AbsorbCountingLaw : Prop :=
  ∀ (ms : List AbsorbMark) (p : Spritz), p.a = 0 → ms ≠ [] →
    shufflesRun ms p = (ms.length - 1) / 128 ∧
    (absorbMarks ms p).a.toNat = (ms.length - 1) % 128 + 1 ∧
    (absorbMarks ms p).w = p.w + 6 * BitVec.ofNat 8 ((ms.length - 1) / 128)

/-- R89: the absorb commands never change `z`, change i, j, k, w only where they run SHUFFLE, and otherwise write only
entries below the new `a` and the sixteen entries 128 to 143. -/
def Obligations.AbsorbTouchesOnlyItsEntries : Prop :=
  ∀ (s t : State) (i : Instr), ((∃ x, i = .absn x) ∨ (∃ b, i = .absb b) ∨ i = .stop) →
    s.spritz.windowBounded → exec i s = .next t →
    t.spritz.z = s.spritz.z ∧
    (s.spritz.a ≠ 128 → (s.spritz.a = 127 → ∀ b, i ≠ .absb b) →
      t.spritz.i = s.spritz.i ∧ t.spritz.j = s.spritz.j ∧ t.spritz.k = s.spritz.k ∧ t.spritz.w = s.spritz.w ∧
      s.spritz.SameOutside t.spritz (fun e => e < t.spritz.a ∨ (128 ≤ e ∧ e ≤ 143)))

/-- R98: the guards are redundant: FLUSH before DRIP, XORK or FLUSH changes neither the state nor the byte. -/
def Obligations.GuardsAreRedundant : Prop :=
  ∀ s u : State, s.flt = false → s.rdy = true → exec .flush s = .next u →
    (∃ t v d, exec .drip s = .next t ∧ exec .drip u = .next v ∧ t.spritz = v.spritz ∧
      s.Answered t .ok d ∧ u.Answered v .ok d) ∧
    (∀ b, ∃ t v d, exec (.xork b) s = .next t ∧ exec (.xork b) u = .next v ∧ t.spritz = v.spritz ∧
      s.Answered t .ok d ∧ u.Answered v .ok d) ∧
    (∃ v, exec .flush u = .next v ∧ v.spritz = u.spritz)

/-- R100: two engines in equal Spritz states return equal keystreams, and what XORK of a text returned on one, XORK
on the other turns back into the text. -/
def Obligations.XorkRoundTrip : Prop :=
  ∀ (s s' : State), s.flt = false → s'.flt = false → s.rdy = true → s'.rdy = true → s.spritz = s'.spritz →
    (∀ n, s.replies (List.replicate n 0x0600) = s'.replies (List.replicate n 0x0600)) ∧
    ∀ ps : List Byte,
      (s'.replies (((s.replies (ps.map fun b => encode (.xork b))).map dataByte).map
        fun b => encode (.xork b))).map dataByte = ps

/-- R149: a run of a program of commands answers each of them; if every response is OK it ends with `flt = 0` and
`rdy = 1`, otherwise with `flt = 1`. -/
def Obligations.RunsEndReadyOrFaulted : Prop :=
  ∀ (cs : List Word) (s t : State), cs ≠ [] → s.prog = cs.map HostAct.issue → s.cur = 0 →
    runsTo cs.length s t →
    t.cur = cs.length ∧
    ∃ rs : List Word, t.responses = s.responses ++ rs ∧ rs.length = cs.length ∧
      (goodResponses rs → t.flt = false ∧ t.rdy = true) ∧ (¬ goodResponses rs → t.flt = true)

/-! ### Host sequences (44_host_sequences.md) -/

/-- R63: `SQZ n` with `n >= 1` leaves the state and returns the bytes of `DRIPM n`. -/
def Obligations.SqueezeEqualsDripMany : Prop :=
  ∀ (s : State) (n : Nat), s.flt = false → s.rdy = true →
    (squeezeBytes (n + 1) s).data = (dripMany (n + 1) s).data ∧
    (squeezeBytes (n + 1) s).state.spritz = (dripMany (n + 1) s).state.spritz ∧
    (squeezeBytes (n + 1) s).data.length = n + 1

/-- R109: a destination shorter than the source issues no command; otherwise the source's bytes come back XORed with
the keystream, and the destination's further bytes are not written. -/
def Obligations.XorKeystreamChecksLengths : Prop :=
  ∀ (s : State) (dst src : List Byte),
    (dst.length < src.length → xorKeystream dst src s = ⟨s, dst, some .preconditionViolation⟩) ∧
    (s.flt = false → s.rdy = true → src.length ≤ dst.length →
      ∃ ks : List Byte, ks = (squeezeBytes src.length s).data ∧ ks.length = src.length ∧
        (xorKeystream dst src s).error = none ∧
        (xorKeystream dst src s).state.spritz = (squeezeBytes src.length s).state.spritz ∧
        (xorKeystream dst src s).data = List.zipWith (· ^^^ ·) src ks ++ dst.drop src.length)

/-- R111, R112, R117(d): on its domain `sum` succeeds from any state without a fault, its digest has `bits / 8` bytes
and does not depend on the engine's history, and the length byte is `n AND 0xFF`. -/
def Obligations.HashSumIsDeterministic : Prop :=
  (∀ (bits : Nat) (m : List Byte) (s s' : State), bits % 8 = 0 → 8 ≤ bits → bits ≤ 2048 →
    s.flt = false → s'.flt = false →
    (hashSum bits m s).error = none ∧ (hashSum bits m s).data.length = bits / 8 ∧
    (hashSum bits m s).data = (hashSum bits m s').data) ∧
  (∀ n : Nat, (lengthByte n).toNat = n % 256)

/-- R56: the assembler cannot emit a reserved word. -/
def Obligations.AssemblerEmitsOnlyLegalWords : Prop :=
  ∀ (ls : List (List Char)) (ws : List Word), assemble ls = some ws → ∀ w ∈ ws, wellFormedWord w = true
end

