-- ==== Sys2Proof/Laws/Claims.lean ====
section
/-! SUPPORT. The small lemmas of the terms claims use and of a host procedure's run: how many SHUFFLEs each command
counts (41_sequencer_microops.md R79), and what the operations on a run leave. -/

namespace Sys2Proof.Machine

@[simp] theorem shufflesRun_nil (p : Spritz) : shufflesRun [] p = 0 := rfl
@[simp] theorem shufflesRun_cons (m : AbsorbMark) (ms : List AbsorbMark) (p : Spritz) :
    shufflesRun (m :: ms) p = (if p.a = 128 then 1 else 0) + shufflesRun ms (m.apply p) := rfl
@[simp] theorem absorbMarks_nil (p : Spritz) : absorbMarks [] p = p := rfl
@[simp] theorem absorbMarks_cons (m : AbsorbMark) (ms : List AbsorbMark) (p : Spritz) :
    absorbMarks (m :: ms) p = absorbMarks ms (m.apply p) := rfl
@[simp] theorem AbsorbMark.apply_nibble (x : Nibble) (p : Spritz) : (AbsorbMark.nibble x).apply p = p.nibble x := rfl
@[simp] theorem AbsorbMark.apply_stop (p : Spritz) : AbsorbMark.stop.apply p = p.stopMark := rfl

theorem commandShuffles_init (p : Spritz) : commandShuffles .init p = 0 := rfl
theorem commandShuffles_absn (x : Nibble) (p : Spritz) :
    commandShuffles (.absn x) p = if p.a = 128 then 1 else 0 := by
  simp [commandShuffles, commandMarks, commandGuarded]
theorem commandShuffles_stop (p : Spritz) : commandShuffles .stop p = if p.a = 128 then 1 else 0 := by
  simp [commandShuffles, commandMarks, commandGuarded]

/-- A guarded command counts one SHUFFLE if and only if input is pending. -/
theorem commandShuffles_guarded {i : Instr} (h : commandGuarded i = true) (p : Spritz) :
    commandShuffles i p = if p.pending = true then 1 else 0 := by
  cases i <;> simp [commandGuarded] at h <;> simp [commandShuffles, commandMarks, commandGuarded]

@[simp] theorem Spritz.contents_length (p : Spritz) : p.contents.length = 262 := by simp [Spritz.contents]

@[simp] theorem HostRun.dropData_state (n : Nat) (r : HostRun) : (r.dropData n).state = r.state := rfl
@[simp] theorem HostRun.dropData_data (n : Nat) (r : HostRun) : (r.dropData n).data = r.data.drop n := rfl
@[simp] theorem HostRun.dropData_error (n : Nat) (r : HostRun) : (r.dropData n).error = r.error := rfl
@[simp] theorem HostRun.intoBuffer_state (dst : List Byte) (r : HostRun) : (r.intoBuffer dst).state = r.state := rfl
@[simp] theorem HostRun.intoBuffer_data (dst : List Byte) (r : HostRun) :
    (r.intoBuffer dst).data = r.data ++ dst.drop r.data.length := rfl
@[simp] theorem HostRun.intoBuffer_error (dst : List Byte) (r : HostRun) : (r.intoBuffer dst).error = r.error := rfl

end Sys2Proof.Machine
end

