-- ==== Sys2Proof/Laws/State.lean ====
section
/-! SUPPORT. One lemma per field per update of State and of its Spritz part, each true by unfolding, so that no
later proof unfolds a record update. The proofs split the record first: a lemma true by plain rfl would be used by
simp as a definitional equality, and the kernel would then try to run the 512 updates of a WHIP. -/

namespace Sys2Proof.Machine

@[simp] theorem State.advance_spritz (s : State) : s.advance.spritz = s.spritz := by cases s; rfl
@[simp] theorem State.advance_rdy (s : State) : s.advance.rdy = s.rdy := by cases s; rfl
@[simp] theorem State.advance_flt (s : State) : s.advance.flt = s.flt := by cases s; rfl
@[simp] theorem State.advance_prog (s : State) : s.advance.prog = s.prog := by cases s; rfl
@[simp] theorem State.advance_cur (s : State) : s.advance.cur = s.cur + 1 := by cases s; rfl
@[simp] theorem State.advance_responses (s : State) : s.advance.responses = s.responses := by cases s; rfl
@[simp] theorem State.advance_resets (s : State) : s.advance.resets = s.resets := by cases s; rfl

@[simp] theorem State.respond_spritz (st : Status) (d : Byte) (s : State) : (s.respond st d).spritz = s.spritz := by cases s; rfl
@[simp] theorem State.respond_rdy (st : Status) (d : Byte) (s : State) : (s.respond st d).rdy = s.rdy := by cases s; rfl
@[simp] theorem State.respond_flt (st : Status) (d : Byte) (s : State) : (s.respond st d).flt = s.flt := by cases s; rfl
@[simp] theorem State.respond_prog (st : Status) (d : Byte) (s : State) : (s.respond st d).prog = s.prog := by cases s; rfl
@[simp] theorem State.respond_cur (st : Status) (d : Byte) (s : State) : (s.respond st d).cur = s.cur + 1 := by cases s; rfl
@[simp] theorem State.respond_responses (st : Status) (d : Byte) (s : State) : (s.respond st d).responses = s.responses ++ [responseWord st d] := by cases s; rfl
@[simp] theorem State.respond_resets (st : Status) (d : Byte) (s : State) : (s.respond st d).resets = s.resets := by cases s; rfl

@[simp] theorem State.complete_spritz (p : Spritz) (d : Byte) (s : State) : (s.complete p d).spritz = p := by cases s; rfl
@[simp] theorem State.complete_rdy (p : Spritz) (d : Byte) (s : State) : (s.complete p d).rdy = s.rdy := by cases s; rfl
@[simp] theorem State.complete_flt (p : Spritz) (d : Byte) (s : State) : (s.complete p d).flt = s.flt := by cases s; rfl
@[simp] theorem State.complete_prog (p : Spritz) (d : Byte) (s : State) : (s.complete p d).prog = s.prog := by cases s; rfl
@[simp] theorem State.complete_cur (p : Spritz) (d : Byte) (s : State) : (s.complete p d).cur = s.cur + 1 := by cases s; rfl
@[simp] theorem State.complete_responses (p : Spritz) (d : Byte) (s : State) : (s.complete p d).responses = s.responses ++ [responseWord .ok d] := by cases s; rfl
@[simp] theorem State.complete_resets (p : Spritz) (d : Byte) (s : State) : (s.complete p d).resets = s.resets := by cases s; rfl

@[simp] theorem State.raiseFault_spritz (c : Status) (s : State) : (s.raiseFault c).spritz = s.spritz := by cases s; rfl
@[simp] theorem State.raiseFault_rdy (c : Status) (s : State) : (s.raiseFault c).rdy = s.rdy := by cases s; rfl
@[simp] theorem State.raiseFault_flt (c : Status) (s : State) : (s.raiseFault c).flt = true := by cases s; rfl
@[simp] theorem State.raiseFault_prog (c : Status) (s : State) : (s.raiseFault c).prog = s.prog := by cases s; rfl
@[simp] theorem State.raiseFault_cur (c : Status) (s : State) : (s.raiseFault c).cur = s.cur + 1 := by cases s; rfl
@[simp] theorem State.raiseFault_responses (c : Status) (s : State) : (s.raiseFault c).responses = s.responses ++ [responseWord c 0x00] := by cases s; rfl
@[simp] theorem State.raiseFault_resets (c : Status) (s : State) : (s.raiseFault c).resets = s.resets := by cases s; rfl

@[simp] theorem State.refuse_spritz (s : State) : s.refuse.spritz = s.spritz := by cases s; rfl
@[simp] theorem State.refuse_rdy (s : State) : s.refuse.rdy = s.rdy := by cases s; rfl
@[simp] theorem State.refuse_flt (s : State) : s.refuse.flt = s.flt := by cases s; rfl
@[simp] theorem State.refuse_prog (s : State) : s.refuse.prog = s.prog := by cases s; rfl
@[simp] theorem State.refuse_cur (s : State) : s.refuse.cur = s.cur + 1 := by cases s; rfl
@[simp] theorem State.refuse_responses (s : State) : s.refuse.responses = s.responses ++ [responseWord .errFaulted 0x00] := by cases s; rfl
@[simp] theorem State.refuse_resets (s : State) : s.refuse.resets = s.resets := by cases s; rfl

@[simp] theorem State.initialise_spritz (s : State) : s.initialise.spritz = Spritz.initial := by cases s; rfl
@[simp] theorem State.initialise_rdy (s : State) : s.initialise.rdy = true := by cases s; rfl
@[simp] theorem State.initialise_flt (s : State) : s.initialise.flt = s.flt := by cases s; rfl
@[simp] theorem State.initialise_prog (s : State) : s.initialise.prog = s.prog := by cases s; rfl
@[simp] theorem State.initialise_cur (s : State) : s.initialise.cur = s.cur + 1 := by cases s; rfl
@[simp] theorem State.initialise_responses (s : State) : s.initialise.responses = s.responses ++ [responseWord .ok 0x00] := by cases s; rfl
@[simp] theorem State.initialise_resets (s : State) : s.initialise.resets = s.resets := by cases s; rfl

@[simp] theorem State.hardReset_spritz (r : Option Word) (s : State) : (s.hardReset r).spritz = Spritz.unspecified s.resets r s.spritz := by cases s; rfl
@[simp] theorem State.hardReset_rdy (r : Option Word) (s : State) : (s.hardReset r).rdy = false := by cases s; rfl
@[simp] theorem State.hardReset_flt (r : Option Word) (s : State) : (s.hardReset r).flt = false := by cases s; rfl
@[simp] theorem State.hardReset_prog (r : Option Word) (s : State) : (s.hardReset r).prog = s.prog := by cases s; rfl
@[simp] theorem State.hardReset_cur (r : Option Word) (s : State) : (s.hardReset r).cur = s.cur := by cases s; rfl
@[simp] theorem State.hardReset_responses (r : Option Word) (s : State) : (s.hardReset r).responses = s.responses := by cases s; rfl
@[simp] theorem State.hardReset_resets (r : Option Word) (s : State) : (s.hardReset r).resets = s.resets + 1 := by cases s; rfl

@[simp] theorem State.present_spritz (c : Word) (s : State) : (s.present c).spritz = s.spritz := by cases s; rfl
@[simp] theorem State.present_rdy (c : Word) (s : State) : (s.present c).rdy = s.rdy := by cases s; rfl
@[simp] theorem State.present_flt (c : Word) (s : State) : (s.present c).flt = s.flt := by cases s; rfl
@[simp] theorem State.present_prog (c : Word) (s : State) : (s.present c).prog = s.prog.take s.cur ++ .issue c :: s.prog.drop (s.cur + 1) := by cases s; rfl
@[simp] theorem State.present_cur (c : Word) (s : State) : (s.present c).cur = min s.cur s.prog.length := by cases s; rfl
@[simp] theorem State.present_responses (c : Word) (s : State) : (s.present c).responses = s.responses := by cases s; rfl
@[simp] theorem State.present_resets (c : Word) (s : State) : (s.present c).resets = s.resets := by cases s; rfl

theorem Spritz.swap_S (x y : Byte) (p : Spritz) :
    (p.swap x y).S = (p.S.write x (p.S.read y)).write y (p.S.read x) := rfl
@[simp] theorem Spritz.swap_i (x y : Byte) (p : Spritz) : (p.swap x y).i = p.i := by cases p; rfl
@[simp] theorem Spritz.swap_j (x y : Byte) (p : Spritz) : (p.swap x y).j = p.j := by cases p; rfl
@[simp] theorem Spritz.swap_k (x y : Byte) (p : Spritz) : (p.swap x y).k = p.k := by cases p; rfl
@[simp] theorem Spritz.swap_z (x y : Byte) (p : Spritz) : (p.swap x y).z = p.z := by cases p; rfl
@[simp] theorem Spritz.swap_a (x y : Byte) (p : Spritz) : (p.swap x y).a = p.a := by cases p; rfl
@[simp] theorem Spritz.swap_w (x y : Byte) (p : Spritz) : (p.swap x y).w = p.w := by cases p; rfl

@[simp] theorem Spritz.stepI_S (p : Spritz) : p.stepI.S = p.S := by cases p; rfl
@[simp] theorem Spritz.stepI_i (p : Spritz) : p.stepI.i = p.i + p.w := by cases p; rfl
@[simp] theorem Spritz.stepI_j (p : Spritz) : p.stepI.j = p.j := by cases p; rfl
@[simp] theorem Spritz.stepI_k (p : Spritz) : p.stepI.k = p.k := by cases p; rfl
@[simp] theorem Spritz.stepI_z (p : Spritz) : p.stepI.z = p.z := by cases p; rfl
@[simp] theorem Spritz.stepI_a (p : Spritz) : p.stepI.a = p.a := by cases p; rfl
@[simp] theorem Spritz.stepI_w (p : Spritz) : p.stepI.w = p.w := by cases p; rfl

@[simp] theorem Spritz.stepJ_S (p : Spritz) : p.stepJ.S = p.S := by cases p; rfl
@[simp] theorem Spritz.stepJ_i (p : Spritz) : p.stepJ.i = p.i := by cases p; rfl
@[simp] theorem Spritz.stepJ_j (p : Spritz) : p.stepJ.j = p.k + p.S.readSum p.j (p.S.read p.i) := by cases p; rfl
@[simp] theorem Spritz.stepJ_k (p : Spritz) : p.stepJ.k = p.k := by cases p; rfl
@[simp] theorem Spritz.stepJ_z (p : Spritz) : p.stepJ.z = p.z := by cases p; rfl
@[simp] theorem Spritz.stepJ_a (p : Spritz) : p.stepJ.a = p.a := by cases p; rfl
@[simp] theorem Spritz.stepJ_w (p : Spritz) : p.stepJ.w = p.w := by cases p; rfl

@[simp] theorem Spritz.stepK_S (p : Spritz) : p.stepK.S = p.S := by cases p; rfl
@[simp] theorem Spritz.stepK_i (p : Spritz) : p.stepK.i = p.i := by cases p; rfl
@[simp] theorem Spritz.stepK_j (p : Spritz) : p.stepK.j = p.j := by cases p; rfl
@[simp] theorem Spritz.stepK_k (p : Spritz) : p.stepK.k = p.i + p.k + p.S.read p.j := by cases p; rfl
@[simp] theorem Spritz.stepK_z (p : Spritz) : p.stepK.z = p.z := by cases p; rfl
@[simp] theorem Spritz.stepK_a (p : Spritz) : p.stepK.a = p.a := by cases p; rfl
@[simp] theorem Spritz.stepK_w (p : Spritz) : p.stepK.w = p.w := by cases p; rfl

@[simp] theorem Spritz.addStride_S (p : Spritz) : p.addStride.S = p.S := by cases p; rfl
@[simp] theorem Spritz.addStride_i (p : Spritz) : p.addStride.i = p.i := by cases p; rfl
@[simp] theorem Spritz.addStride_j (p : Spritz) : p.addStride.j = p.j := by cases p; rfl
@[simp] theorem Spritz.addStride_k (p : Spritz) : p.addStride.k = p.k := by cases p; rfl
@[simp] theorem Spritz.addStride_z (p : Spritz) : p.addStride.z = p.z := by cases p; rfl
@[simp] theorem Spritz.addStride_a (p : Spritz) : p.addStride.a = p.a := by cases p; rfl
@[simp] theorem Spritz.addStride_w (p : Spritz) : p.addStride.w = p.w + 2 := by cases p; rfl

@[simp] theorem Spritz.clearWindow_S (p : Spritz) : p.clearWindow.S = p.S := by cases p; rfl
@[simp] theorem Spritz.clearWindow_i (p : Spritz) : p.clearWindow.i = p.i := by cases p; rfl
@[simp] theorem Spritz.clearWindow_j (p : Spritz) : p.clearWindow.j = p.j := by cases p; rfl
@[simp] theorem Spritz.clearWindow_k (p : Spritz) : p.clearWindow.k = p.k := by cases p; rfl
@[simp] theorem Spritz.clearWindow_z (p : Spritz) : p.clearWindow.z = p.z := by cases p; rfl
@[simp] theorem Spritz.clearWindow_a (p : Spritz) : p.clearWindow.a = 0 := by cases p; rfl
@[simp] theorem Spritz.clearWindow_w (p : Spritz) : p.clearWindow.w = p.w := by cases p; rfl

@[simp] theorem Spritz.output_S (p : Spritz) : p.output.S = p.S := by cases p; rfl
@[simp] theorem Spritz.output_i (p : Spritz) : p.output.i = p.i := by cases p; rfl
@[simp] theorem Spritz.output_j (p : Spritz) : p.output.j = p.j := by cases p; rfl
@[simp] theorem Spritz.output_k (p : Spritz) : p.output.k = p.k := by cases p; rfl
@[simp] theorem Spritz.output_z (p : Spritz) : p.output.z = p.S.readSum p.j (p.S.readSum p.i (p.S.readSum p.z p.k)) := by cases p; rfl
@[simp] theorem Spritz.output_a (p : Spritz) : p.output.a = p.a := by cases p; rfl
@[simp] theorem Spritz.output_w (p : Spritz) : p.output.w = p.w := by cases p; rfl

@[simp] theorem Spritz.countOne_S (p : Spritz) : p.countOne.S = p.S := by cases p; rfl
@[simp] theorem Spritz.countOne_i (p : Spritz) : p.countOne.i = p.i := by cases p; rfl
@[simp] theorem Spritz.countOne_j (p : Spritz) : p.countOne.j = p.j := by cases p; rfl
@[simp] theorem Spritz.countOne_k (p : Spritz) : p.countOne.k = p.k := by cases p; rfl
@[simp] theorem Spritz.countOne_z (p : Spritz) : p.countOne.z = p.z := by cases p; rfl
@[simp] theorem Spritz.countOne_a (p : Spritz) : p.countOne.a = p.a + 1 := by cases p; rfl
@[simp] theorem Spritz.countOne_w (p : Spritz) : p.countOne.w = p.w := by cases p; rfl

end Sys2Proof.Machine
end

