-- ==== Sys2Proof/Laws/Memory.lean ====
section
/-! SUPPORT. The laws of the state RAM: a read after a write (20_memory.md R36), every operation keeps the
canonical form, and canonical memories that read alike are equal. -/

namespace Sys2Proof.Machine

@[simp] theorem Memory.read_nil (e : Byte) : Memory.read [] e = Config.unspecifiedByte := rfl

theorem Memory.read_cons (b : Nat) (v : Byte) (rest : Memory) (e : Byte) :
    Memory.read ((b, v) :: rest) e = if b = e.toNat then v else Memory.read rest e := rfl

/-! ### Reading after writing -/

theorem Memory.read_erase (m : Memory) (n : Nat) (e : Byte) :
    (m.erase n).read e = if n = e.toNat then Config.unspecifiedByte else m.read e := by
  induction m with
  | nil => simp [Memory.erase]
  | cons c rest ih =>
    obtain ⟨b, v⟩ := c
    by_cases hb : b = n
    · subst hb
      simp only [Memory.erase, if_pos, ih, Memory.read_cons]
      split <;> rfl
    · simp only [Memory.erase, if_neg hb, Memory.read_cons, ih]
      by_cases hbe : b = e.toNat
      · have : n ≠ e.toNat := fun h => hb (hbe.trans h.symm)
        simp [hbe, this]
      · simp [hbe]

theorem Memory.read_insert (m : Memory) (n : Nat) (v : Byte) (e : Byte)
    (absent : ∀ c ∈ m, c.1 ≠ n) :
    (m.insert n v).read e = if n = e.toNat then v else m.read e := by
  induction m with
  | nil => simp [Memory.insert, Memory.read_cons]
  | cons c rest ih =>
    obtain ⟨b, x⟩ := c
    have hb : b ≠ n := absent (b, x) (by simp)
    have hrest := ih (fun c hc => absent c (by simp [hc]))
    by_cases hlt : n < b
    · simp [Memory.insert, hlt, Memory.read_cons]
    · simp only [Memory.insert, if_neg hlt, Memory.read_cons, hrest]
      by_cases hbe : b = e.toNat
      · have : n ≠ e.toNat := fun h => hb (hbe.trans h.symm)
        simp [hbe, this]
      · simp [hbe]

theorem Memory.mem_erase {m : Memory} {n : Nat} {c : Host.Cell} (h : c ∈ m.erase n) :
    c ∈ m ∧ c.1 ≠ n := by
  induction m with
  | nil => simp [Memory.erase] at h
  | cons d rest ih =>
    obtain ⟨b, v⟩ := d
    by_cases hb : b = n
    · rw [Memory.erase, if_pos hb] at h
      exact ⟨List.mem_cons_of_mem _ (ih h).1, (ih h).2⟩
    · rw [Memory.erase, if_neg hb, List.mem_cons] at h
      rcases h with rfl | h
      · exact ⟨by simp, hb⟩
      · exact ⟨List.mem_cons_of_mem _ (ih h).1, (ih h).2⟩

/-- A read after a write gives the byte written at its address, and what was there before elsewhere (R36). -/
theorem Memory.read_write (m : Memory) (e v f : Byte) :
    (m.write e v).read f = if e = f then v else m.read f := by
  have key : (e.toNat = f.toNat) = (e = f) := by simp [BitVec.toNat_inj]
  unfold Memory.write
  split
  · rename_i hv
    simp [Memory.read_erase, key, hv]
  · rw [Memory.read_insert _ _ _ _ (fun c hc => (Memory.mem_erase hc).2), Memory.read_erase]
    simp only [key]
    split <;> rfl

@[simp] theorem Memory.read_write_same (m : Memory) (e v : Byte) : (m.write e v).read e = v := by
  simp [Memory.read_write]

theorem Memory.read_write_other (m : Memory) {e f : Byte} (v : Byte) (h : e ≠ f) :
    (m.write e v).read f = m.read f := by
  simp [Memory.read_write, h]

theorem Memory.read_tabulate (g : Byte → Byte) (n e : Nat) (f : Byte) :
    (Memory.tabulate g n e).read f =
      if e ≤ f.toNat ∧ f.toNat < e + n then g f else Config.unspecifiedByte := by
  induction n generalizing e with
  | zero => simp [Memory.tabulate]
  | succ n ih =>
    have here : e = f.toNat → g (BitVec.ofNat 8 e) = g f := by rintro rfl; simp
    by_cases he : e = f.toNat
    · have inside : e ≤ f.toNat ∧ f.toNat < e + (n + 1) := by omega
      have outside : ¬ (e + 1 ≤ f.toNat ∧ f.toNat < e + 1 + n) := by omega
      rw [if_pos inside, Memory.tabulate]
      split
      · rename_i hv
        rw [ih, if_neg outside, ← here he, hv]
      · rw [Memory.read_cons, if_pos he, here he]
    · have same : (e + 1 ≤ f.toNat ∧ f.toNat < e + 1 + n) ↔ (e ≤ f.toNat ∧ f.toNat < e + (n + 1)) := by omega
      rw [Memory.tabulate]
      split
      · rw [ih]; simp only [same]
      · rw [Memory.read_cons, if_neg he, ih]; simp only [same]

/-- Every entry of `ofFn f` is the one `f` gives. -/
@[simp] theorem Memory.read_ofFn (g : Byte → Byte) (f : Byte) : (Memory.ofFn g).read f = g f := by
  have : f.toNat < 256 := f.isLt
  rw [Memory.ofFn, Memory.read_tabulate, if_pos (by omega)]

/-! ### The canonical form -/

theorem Memory.wf_nil : Memory.wf [] := by simp [Memory.wf]

theorem Memory.wf_tail {c : Host.Cell} {m : Memory} (h : Memory.wf (c :: m)) : Memory.wf m :=
  ⟨(List.pairwise_cons.1 h.1).2, fun d hd => h.2 d (List.mem_cons_of_mem _ hd)⟩

theorem Memory.wf_erase {m : Memory} (h : m.wf) (n : Nat) : (m.erase n).wf := by
  refine ⟨?_, fun c hc => h.2 c (Memory.mem_erase hc).1⟩
  induction m with
  | nil => simp [Memory.erase]
  | cons c rest ih =>
    obtain ⟨b, v⟩ := c
    rw [Memory.erase]
    split
    · exact ih (Memory.wf_tail h)
    · exact List.pairwise_cons.2
        ⟨fun d hd => (List.pairwise_cons.1 h.1).1 d (Memory.mem_erase hd).1, ih (Memory.wf_tail h)⟩

theorem Memory.mem_insert {m : Memory} {n : Nat} {v : Byte} {c : Host.Cell} (h : c ∈ m.insert n v) :
    c = (n, v) ∨ c ∈ m := by
  induction m with
  | nil => simpa [Memory.insert] using h
  | cons d rest ih =>
    obtain ⟨b, x⟩ := d
    by_cases hlt : n < b
    · rw [Memory.insert, if_pos hlt, List.mem_cons] at h
      exact h
    · rw [Memory.insert, if_neg hlt, List.mem_cons] at h
      rcases h with h | h
      · exact Or.inr (by simp [h])
      · exact (ih h).imp id (List.mem_cons_of_mem _)

theorem Memory.wf_insert {m : Memory} (h : m.wf) {n : Nat} {v : Byte} (hn : n < 256)
    (hv : v ≠ Config.unspecifiedByte) (absent : ∀ c ∈ m, c.1 ≠ n) : (m.insert n v).wf := by
  constructor
  · induction m with
    | nil => simp [Memory.insert]
    | cons c rest ih =>
      obtain ⟨b, x⟩ := c
      have hsorted := List.pairwise_cons.1 h.1
      have hb : b ≠ n := absent (b, x) (by simp)
      by_cases hlt : n < b
      · rw [Memory.insert, if_pos hlt]
        refine List.pairwise_cons.2 ⟨fun d hd => ?_, h.1⟩
        rcases List.mem_cons.1 hd with rfl | hd
        · exact hlt
        · exact Nat.lt_trans hlt (hsorted.1 d hd)
      · rw [Memory.insert, if_neg hlt]
        refine List.pairwise_cons.2 ⟨fun d hd => ?_, ih (Memory.wf_tail h) fun c hc => absent c (by simp [hc])⟩
        rcases Memory.mem_insert hd with rfl | hd
        · exact lt_of_le_of_ne (not_lt.1 hlt) hb
        · exact hsorted.1 d hd
  · intro c hc
    rcases Memory.mem_insert hc with rfl | hc
    · exact ⟨hn, hv⟩
    · exact h.2 c hc

/-- A write keeps the canonical form. -/
theorem Memory.wf_write {m : Memory} (h : m.wf) (e v : Byte) : (m.write e v).wf := by
  unfold Memory.write
  split
  · exact Memory.wf_erase h _
  · rename_i hv
    exact Memory.wf_insert (Memory.wf_erase h _) e.isLt hv (fun c hc => (Memory.mem_erase hc).2)

theorem Memory.wf_tabulate (g : Byte → Byte) (n e : Nat) (he : e + n ≤ 256) :
    (Memory.tabulate g n e).wf ∧ ∀ c ∈ Memory.tabulate g n e, e ≤ c.1 := by
  induction n generalizing e with
  | zero => simp [Memory.tabulate, Memory.wf]
  | succ n ih =>
    obtain ⟨hwf, hge⟩ := ih (e + 1) (by omega)
    rw [Memory.tabulate]
    split
    · exact ⟨hwf, fun c hc => Nat.le_of_succ_le (hge c hc)⟩
    · rename_i hv
      refine ⟨⟨List.pairwise_cons.2 ⟨fun c hc => hge c hc, hwf.1⟩, fun c hc => ?_⟩, fun c hc => ?_⟩
      · rcases List.mem_cons.1 hc with rfl | hc
        · exact ⟨by simp only; omega, hv⟩
        · exact hwf.2 c hc
      · rcases List.mem_cons.1 hc with rfl | hc
        · exact Nat.le_refl _
        · exact Nat.le_of_succ_le (hge c hc)

/-- A memory written whole is canonical. -/
theorem Memory.wf_ofFn (g : Byte → Byte) : (Memory.ofFn g).wf := (Memory.wf_tabulate g 256 0 (by omega)).1

/-- The byte a canonical memory lists is the one it reads. -/
theorem Memory.read_of_mem {m : Memory} (h : m.wf) {c : Host.Cell} (hc : c ∈ m) :
    m.read (BitVec.ofNat 8 c.1) = c.2 := by
  induction m with
  | nil => simp at hc
  | cons d rest ih =>
    obtain ⟨b, v⟩ := d
    have hlt : c.1 < 256 := (h.2 c hc).1
    have hnat : (BitVec.ofNat 8 c.1).toNat = c.1 := by simp; omega
    rw [Memory.read_cons, hnat]
    rcases List.mem_cons.1 hc with rfl | hc
    · simp
    · have : b < c.1 := (List.pairwise_cons.1 h.1).1 c hc
      rw [if_neg (by omega), ih (Memory.wf_tail h) hc]

/-- A cell whose byte a memory reads, and which it could list, is listed. -/
theorem Memory.mem_of_read {m : Memory} {c : Host.Cell} (hlt : c.1 < 256)
    (hv : c.2 ≠ Config.unspecifiedByte) (hr : m.read (BitVec.ofNat 8 c.1) = c.2) : c ∈ m := by
  induction m with
  | nil => exact absurd hr.symm hv
  | cons d rest ih =>
    obtain ⟨b, v⟩ := d
    have hnat : (BitVec.ofNat 8 c.1).toNat = c.1 := by simp; omega
    rw [Memory.read_cons, hnat] at hr
    split at hr
    · rename_i hb
      have : c = (b, v) := Prod.ext hb.symm hr.symm
      simp [this]
    · exact List.mem_cons_of_mem _ (ih hr)

/-- Canonical memories that read alike are equal. -/
theorem Memory.ext_read {m n : Memory} (hm : m.wf) (hn : n.wf) (h : ∀ e : Byte, m.read e = n.read e) : m = n := by
  have sub : ∀ {p q : Memory}, p.wf → (∀ e : Byte, p.read e = q.read e) → ∀ c ∈ p, c ∈ q :=
    fun hp heq c hc => Memory.mem_of_read (hp.2 c hc).1 (hp.2 c hc).2
      ((heq _).symm.trans (Memory.read_of_mem hp hc))
  refine List.Perm.eq_of_pairwise (le := fun c d : Host.Cell => c.1 < d.1)
    (fun c d _ _ hcd hdc => absurd hcd (Nat.lt_asymm hdc)) hm.1 hn.1 ?_
  have nodup : ∀ {p : Memory}, p.wf → p.Nodup := fun hp =>
    hp.1.imp fun hlt heq => absurd (congrArg Prod.fst heq) (Nat.ne_of_lt hlt)
  exact (List.perm_ext_iff_of_nodup (nodup hm) (nodup hn)).2
    fun c => ⟨sub hm h c, sub hn (fun e => (h e).symm) c⟩

end Sys2Proof.Machine
end

