-- ==== Sys2Proof/Laws/Ops.lean ====
section
/-! SUPPORT. What each shared operation can do, said once: the response word, admission, the host's port, and
the case lists of a meaning, of a command word and of a step. -/

namespace Sys2Proof.Machine

/-! ### Response words (30_encoding.md R49, R50) -/

@[simp] theorem statusByte_responseWord (st : Status) (d : Byte) : statusByte (responseWord st d) = st.code := by
  unfold statusByte responseWord
  exact BitVec.extractLsb'_append_eq_left

@[simp] theorem dataByte_responseWord (st : Status) (d : Byte) : dataByte (responseWord st d) = d := by
  unfold dataByte responseWord
  exact BitVec.extractLsb'_append_eq_right

theorem Status.code_injective {st st' : Status} (h : st.code = st'.code) : st = st' := by
  cases st <;> cases st' <;> first | rfl | exact absurd h (by decide)

theorem Status.code_le (st : Status) : st.code ≤ 3 := by cases st <;> decide

/-! ### Admission (60_exceptions.md R129, R141) -/

theorem State.whenReady_faulted (body : Spritz → Spritz × Byte) {s : State} (hf : s.flt = true) :
    s.whenReady body = .next s.refuse := by simp [State.whenReady, hf]

theorem State.whenReady_notInit (body : Spritz → Spritz × Byte) {s : State} (hf : s.flt = false)
    (hr : s.rdy = false) : s.whenReady body = .next (s.raiseFault .errNotInit) := by simp [State.whenReady, hf, hr]

theorem State.whenReady_ready (body : Spritz → Spritz × Byte) {s : State} (hf : s.flt = false)
    (hr : s.rdy = true) :
    s.whenReady body = .next (s.complete (body s.spritz).1 (body s.spritz).2) := by simp [State.whenReady, hf, hr]

/-- The Spritz state and the data byte of a command that runs (R65, R85 to R87, R95 to R97). -/
def bodyOf : Instr → Spritz → Spritz × Byte
  | .init, _ => (Spritz.initial, 0x00)
  | .absn x, p => (p.nibble x, 0x00)
  | .absb b, p => ((p.nibble (lowNibble b)).nibble (highNibble b), 0x00)
  | .stop, p => (p.stopMark, 0x00)
  | .flush, p => (p.flush, 0x00)
  | .drip, p => (p.squeeze, p.squeeze.z)
  | .xork b, p => (p.squeeze, b ^^^ p.squeeze.z)

/-- A command that runs: its effect, `rdy` being 1 after it (R18). -/
def State.ran (i : Instr) (s : State) : State :=
  ({ s with rdy := true }).complete (bodyOf i s.spritz).1 (bodyOf i s.spritz).2

@[simp] theorem State.ran_spritz (i : Instr) (s : State) : (s.ran i).spritz = (bodyOf i s.spritz).1 := by cases s; rfl
@[simp] theorem State.ran_rdy (i : Instr) (s : State) : (s.ran i).rdy = true := by cases s; rfl
@[simp] theorem State.ran_flt (i : Instr) (s : State) : (s.ran i).flt = s.flt := by cases s; rfl
@[simp] theorem State.ran_prog (i : Instr) (s : State) : (s.ran i).prog = s.prog := by cases s; rfl
@[simp] theorem State.ran_cur (i : Instr) (s : State) : (s.ran i).cur = s.cur + 1 := by cases s; rfl
@[simp] theorem State.ran_responses (i : Instr) (s : State) :
    (s.ran i).responses = s.responses ++ [responseWord .ok (bodyOf i s.spritz).2] := by
  cases s; rfl
@[simp] theorem State.ran_resets (i : Instr) (s : State) : (s.ran i).resets = s.resets := by cases s; rfl

/-- The three things a command can do (R129), one of which holds. -/
inductive ExecOutcome (i : Instr) (s : State) : State → Prop where
  | refused (hf : s.flt = true) : ExecOutcome i s s.refuse
  | notInit (hf : s.flt = false) (hr : s.rdy = false) (hi : i ≠ .init) :
      ExecOutcome i s (s.raiseFault .errNotInit)
  | ran (hf : s.flt = false) (hr : i = .init ∨ s.rdy = true) : ExecOutcome i s (s.ran i)

/-- A command that needs a Spritz state, by admission. -/
theorem whenReady_outcome (i : Instr) (hi : i ≠ .init) (s : State) :
    ∃ t, s.whenReady (bodyOf i) = .next t ∧ ExecOutcome i s t := by
  cases hf : s.flt with
  | true => exact ⟨_, s.whenReady_faulted _ hf, .refused hf⟩
  | false =>
    cases hr : s.rdy with
    | false => exact ⟨_, s.whenReady_notInit _ hf hr, .notInit hf hr hi⟩
    | true =>
      refine ⟨s.ran i, ?_, .ran hf (.inr hr)⟩
      have same : ({ s with rdy := true } : State) = s := by rw [← hr]
      rw [s.whenReady_ready _ hf hr, State.ran, same]

/-- Every meaning answers a next state, and it is one of the three. -/
theorem exec_outcome (i : Instr) (s : State) : ∃ t, exec i s = .next t ∧ ExecOutcome i s t := by
  cases i with
  | init =>
    cases hf : s.flt with
    | true => exact ⟨s.refuse, by simp [exec, execInit, hf], .refused hf⟩
    | false => exact ⟨s.ran .init, by simp only [exec, execInit, hf]; rfl, .ran hf (.inl rfl)⟩
  | absn x => exact whenReady_outcome (.absn x) (by simp) s
  | absb b => exact whenReady_outcome (.absb b) (by simp) s
  | stop => exact whenReady_outcome .stop (by simp) s
  | flush => exact whenReady_outcome .flush (by simp) s
  | drip => exact whenReady_outcome .drip (by simp) s
  | xork b => exact whenReady_outcome (.xork b) (by simp) s

/-- What a meaning's next state can be. -/
theorem exec_cases {i : Instr} {s t : State} (h : exec i s = .next t) : ExecOutcome i s t := by
  obtain ⟨u, hu, ho⟩ := exec_outcome i s
  rw [hu] at h
  cases h
  exact ho

/-- What a command word can do: a reserved word is refused or faults, a command goes to its meaning. -/
theorem command_cases {c : Word} {s t : State} (h : command c s = .next t) :
    (∃ why, decode c = .illegal why ∧ t = s.illegalWord) ∨
      ∃ i, decode c = .command i ∧ ExecOutcome i s t := by
  unfold command at h
  split at h
  · rename_i why hd
    cases h
    exact .inl ⟨why, hd, rfl⟩
  · rename_i i hd
    exact .inr ⟨i, hd, exec_cases h⟩

/-- What a step can do: nothing at the end of the program, a command word, or a reset. -/
theorem step_cases {s t : State} (h : step s = .next t) :
    (s.fetch = none ∧ t = s) ∨ (∃ c, s.fetch = some (.issue c) ∧ command c s = .next t) ∨
      ((s.fetch = some .reset ∨ ∃ c, s.fetch = some (.resetDuring c)) ∧ ∃ r, t = (s.hardReset r).advance) := by
  unfold step at h
  split at h
  · rename_i hf
    cases h
    exact .inl ⟨hf, rfl⟩
  · rename_i a hf
    cases a with
    | issue c => exact .inr (.inl ⟨c, hf, h⟩)
    | reset =>
      cases h
      exact .inr (.inr ⟨.inl hf, none, rfl⟩)
    | resetDuring c =>
      cases h
      exact .inr (.inr ⟨.inr ⟨c, hf⟩, some c, rfl⟩)

/-! ### The host's port (10_state.md R20) -/

/-- The word the host presents is the next thing fetched. -/
theorem State.fetch_present (c : Word) (s : State) : (s.present c).fetch = some (.issue c) := by
  rw [State.fetch, State.present_prog, State.present_cur, ← List.length_take,
    List.getElem?_append_right (Nat.le_refl _), Nat.sub_self, List.getElem?_cons_zero]

/-- A step on a presented word is the engine's step on that word. -/
theorem step_present (c : Word) (s : State) : step (s.present c) = command c (s.present c) := by
  unfold step
  rw [State.fetch_present]
  rfl

/-- What the engine does with any word: one of these, and always a next state. -/
theorem command_outcome (c : Word) (s : State) :
    ∃ t, command c s = .next t ∧
      ((∃ why, decode c = .illegal why ∧ t = s.illegalWord) ∨ ∃ i, decode c = .command i ∧ ExecOutcome i s t) := by
  unfold command
  split
  · rename_i why hd
    exact ⟨_, rfl, .inl ⟨why, hd, rfl⟩⟩
  · rename_i i hd
    obtain ⟨t, ht, ho⟩ := exec_outcome i s
    exact ⟨t, ht, .inr ⟨i, hd, ho⟩⟩

/-- What issuing a word leaves is what the engine answers to it (44_host_sequences.md, notation). -/
theorem State.issue_eq {c : Word} {s t : State} (h : command c (s.present c) = .next t) : s.issue c = t := by
  rw [State.issue, step_present, h]

/-- A word that decodes to a command the engine admits runs it. -/
theorem State.issue_ran {c : Word} {i : Instr} {s : State} (hd : decode c = .command i) (hf : s.flt = false)
    (hr : i = .init ∨ s.rdy = true) : s.issue c = (s.present c).ran i := by
  obtain ⟨t, ht, ho⟩ := command_outcome c (s.present c)
  rw [State.issue_eq ht]
  rcases ho with ⟨why, hw, _⟩ | ⟨j, hj, ho⟩
  · rw [hd] at hw; cases hw
  · rw [hd] at hj
    cases hj
    cases ho with
    | refused h => simp [hf] at h
    | notInit _ h hi => rcases hr with hr | hr <;> simp_all
    | ran => rfl

end Sys2Proof.Machine
end

