-- ==== Sys2Proof/Laws/PerInstr.lean ====
section
/-! SUPPORT. Facts about each command as syntax, one lemma per constructor: its word is selected by its own row
of the opcode map and by no other row (30_encoding.md R52). -/

namespace Sys2Proof.Laws.OwnRow

/-- The word of `i` is selected by exactly the row of `i`. -/
def Statement (i : Instr) : Prop :=
  ∀ r ∈ opcodeMap, r.selects (encode i) = true ↔ r = i.row

theorem init : Statement .init := by unfold Statement; decide
theorem absn (x : Nibble) : Statement (.absn x) := by revert x; unfold Statement; decide
theorem absb (b : Byte) : Statement (.absb b) := by revert b; unfold Statement; decide +kernel
theorem stop : Statement .stop := by unfold Statement; decide
theorem flush : Statement .flush := by unfold Statement; decide
theorem drip : Statement .drip := by unfold Statement; decide
theorem xork (b : Byte) : Statement (.xork b) := by revert b; unfold Statement; decide +kernel

end Sys2Proof.Laws.OwnRow
end

