-- ==== Sys2Proof/Laws/Sequencer.lean ====
section
/-! SUPPORT. What each micro-operation does, said once: which fields it writes, what its reads of `S` give after
it, and that it keeps the memory canonical. -/

namespace Sys2Proof.Machine

/-! ### SWAP (41_sequencer_microops.md R70) -/

theorem Spritz.read_swap (x y : Byte) (p : Spritz) (e : Byte) :
    (p.swap x y).S.read e =
      if y = e then p.S.read x else if x = e then p.S.read y else p.S.read e := by
  rw [Spritz.swap_S, Memory.read_write, Memory.read_write]

theorem Spritz.swap_wf {p : Spritz} (h : p.S.wf) (x y : Byte) : (p.swap x y).S.wf :=
  Memory.wf_write (Memory.wf_write h _ _) _ _

/-! ### UPDATE (R71) -/

/-- The registers UPDATE leaves, computed from the state before it. -/
theorem Spritz.update_registers (p : Spritz) :
    p.update.i = p.i + p.w ∧
    p.update.j = p.k + p.S.readSum p.j (p.S.read (p.i + p.w)) ∧
    p.update.k = p.update.i + p.k + p.S.read p.update.j := ⟨rfl, rfl, rfl⟩

@[simp] theorem Spritz.update_z (p : Spritz) : p.update.z = p.z := by cases p; rfl
@[simp] theorem Spritz.update_a (p : Spritz) : p.update.a = p.a := by cases p; rfl
@[simp] theorem Spritz.update_w (p : Spritz) : p.update.w = p.w := by cases p; rfl

/-- UPDATE exchanges the entries at its new `i` and its new `j`. -/
theorem Spritz.read_update (p : Spritz) (e : Byte) :
    p.update.S.read e =
      if p.update.j = e then p.S.read p.update.i
      else if p.update.i = e then p.S.read p.update.j else p.S.read e :=
  Spritz.read_swap _ _ _ e

theorem Spritz.update_wf {p : Spritz} (h : p.S.wf) : p.update.S.wf := Spritz.swap_wf h _ _

/-! ### WHIP (R72) -/

@[simp] theorem Spritz.updates_z (r : Nat) (p : Spritz) : (Spritz.updates r p).z = p.z := by
  induction r generalizing p with
  | zero => rfl
  | succ r ih => rw [Spritz.updates, ih, Spritz.update_z]

@[simp] theorem Spritz.updates_a (r : Nat) (p : Spritz) : (Spritz.updates r p).a = p.a := by
  induction r generalizing p with
  | zero => rfl
  | succ r ih => rw [Spritz.updates, ih, Spritz.update_a]

@[simp] theorem Spritz.updates_w (r : Nat) (p : Spritz) : (Spritz.updates r p).w = p.w := by
  induction r generalizing p with
  | zero => rfl
  | succ r ih => rw [Spritz.updates, ih, Spritz.update_w]

theorem Spritz.updates_wf (r : Nat) {p : Spritz} (h : p.S.wf) : (Spritz.updates r p).S.wf := by
  induction r generalizing p with
  | zero => exact h
  | succ r ih => exact ih (Spritz.update_wf h)

@[simp] theorem Spritz.whip_z (r : Nat) (p : Spritz) : (p.whip r).z = p.z := by simp [Spritz.whip]
@[simp] theorem Spritz.whip_a (r : Nat) (p : Spritz) : (p.whip r).a = p.a := by simp [Spritz.whip]
@[simp] theorem Spritz.whip_w (r : Nat) (p : Spritz) : (p.whip r).w = p.w + 2 := by simp [Spritz.whip]

theorem Spritz.whip_wf (r : Nat) {p : Spritz} (h : p.S.wf) : (p.whip r).S.wf := Spritz.updates_wf r h

/-! ### CRUSH (R73) -/

/-- The registers of a Spritz state, without `S`. -/
def Spritz.registers (p : Spritz) : List Byte := [p.i, p.j, p.k, p.z, p.a, p.w]

theorem Spritz.crushPair_registers (v : Byte) (p : Spritz) :
    (p.crushPair v).registers = p.registers := by
  unfold Spritz.crushPair
  split <;> rfl

theorem Spritz.crushFrom_registers (n : Nat) (v : Byte) (p : Spritz) :
    (Spritz.crushFrom n v p).registers = p.registers := by
  induction n generalizing v p with
  | zero => rfl
  | succ n ih => rw [Spritz.crushFrom, ih, Spritz.crushPair_registers]

theorem Spritz.crush_registers (p : Spritz) : p.crush.registers = p.registers := Spritz.crushFrom_registers 128 0 p

@[simp] theorem Spritz.crush_i (p : Spritz) : p.crush.i = p.i := by
  have := p.crush_registers; simp_all [Spritz.registers]
@[simp] theorem Spritz.crush_j (p : Spritz) : p.crush.j = p.j := by
  have := p.crush_registers; simp_all [Spritz.registers]
@[simp] theorem Spritz.crush_k (p : Spritz) : p.crush.k = p.k := by
  have := p.crush_registers; simp_all [Spritz.registers]
@[simp] theorem Spritz.crush_z (p : Spritz) : p.crush.z = p.z := by
  have := p.crush_registers; simp_all [Spritz.registers]
@[simp] theorem Spritz.crush_a (p : Spritz) : p.crush.a = p.a := by
  have := p.crush_registers; simp_all [Spritz.registers]
@[simp] theorem Spritz.crush_w (p : Spritz) : p.crush.w = p.w := by
  have := p.crush_registers; simp_all [Spritz.registers]

theorem Spritz.crushPair_wf {p : Spritz} (h : p.S.wf) (v : Byte) : (p.crushPair v).S.wf := by
  unfold Spritz.crushPair
  split
  · exact Spritz.swap_wf h _ _
  · exact h

theorem Spritz.crushFrom_wf (n : Nat) (v : Byte) {p : Spritz} (h : p.S.wf) : (Spritz.crushFrom n v p).S.wf := by
  induction n generalizing v p with
  | zero => exact h
  | succ n ih => exact ih _ (Spritz.crushPair_wf h v)

theorem Spritz.crush_wf {p : Spritz} (h : p.S.wf) : p.crush.S.wf := Spritz.crushFrom_wf 128 0 h

/-! ### SHUFFLE (R74) -/

@[simp] theorem Spritz.shuffle_z (p : Spritz) : p.shuffle.z = p.z := by simp [Spritz.shuffle]
@[simp] theorem Spritz.shuffle_a (p : Spritz) : p.shuffle.a = 0 := by simp [Spritz.shuffle]

theorem Spritz.shuffle_wf {p : Spritz} (h : p.S.wf) : p.shuffle.S.wf := by
  have h1 := Spritz.crush_wf (Spritz.whip_wf whipCount h)
  have h2 := Spritz.crush_wf (Spritz.whip_wf whipCount h1)
  have h3 := Spritz.whip_wf whipCount h2
  rw [Spritz.shuffle, Spritz.clearWindow_S]
  exact h3

/-! ### The shared bodies (42_absorb.md R85, R87, 43_output.md R95 to R97) -/

theorem Spritz.makeRoom_cases (p : Spritz) :
    (p.a = 128 ∧ p.makeRoom = p.shuffle) ∨ (p.a ≠ 128 ∧ p.makeRoom = p) := by
  by_cases h : p.a = 128
  · exact .inl ⟨h, by rw [Spritz.makeRoom, Spritz.windowFull, if_pos (by simpa using h)]⟩
  · exact .inr ⟨h, by rw [Spritz.makeRoom, Spritz.windowFull, if_neg (by simpa using h)]⟩

theorem Spritz.flush_cases (p : Spritz) :
    (p.a ≠ 0 ∧ p.flush = p.shuffle ∧ p.flush.a = 0) ∨ (p.a = 0 ∧ p.flush = p) := by
  have key : p.pending = true ↔ p.a ≠ 0 := by
    simp only [Spritz.pending, BitVec.ult, decide_eq_true_eq, ne_eq, ← BitVec.toNat_inj]
    simp; omega
  by_cases h : p.a = 0
  · exact .inr ⟨h, by rw [Spritz.flush, if_neg (by simp [key, h])]⟩
  · have hf : p.flush = p.shuffle := by rw [Spritz.flush, if_pos (key.2 h)]
    exact .inl ⟨h, hf, by rw [hf, Spritz.shuffle_a]⟩

@[simp] theorem Spritz.makeRoom_z (p : Spritz) : p.makeRoom.z = p.z := by
  rcases p.makeRoom_cases with ⟨_, h⟩ | ⟨_, h⟩ <;> simp [h]

@[simp] theorem Spritz.flush_a (p : Spritz) : p.flush.a = 0 := by
  rcases p.flush_cases with ⟨_, _, h⟩ | ⟨h, h'⟩
  · exact h
  · rw [h', h]

@[simp] theorem Spritz.flush_z (p : Spritz) : p.flush.z = p.z := by
  rcases p.flush_cases with ⟨_, h, _⟩ | ⟨_, h⟩ <;> simp [h]

theorem Spritz.makeRoom_wf {p : Spritz} (h : p.S.wf) : p.makeRoom.S.wf := by
  rcases p.makeRoom_cases with ⟨_, hm⟩ | ⟨_, hm⟩ <;> rw [hm]
  · exact Spritz.shuffle_wf h
  · exact h

theorem Spritz.flush_wf {p : Spritz} (h : p.S.wf) : p.flush.S.wf := by
  rcases p.flush_cases with ⟨_, hm, _⟩ | ⟨_, hm⟩ <;> rw [hm]
  · exact Spritz.shuffle_wf h
  · exact h

theorem Spritz.nibble_wf {p : Spritz} (h : p.S.wf) (x : Nibble) : (p.nibble x).S.wf :=
  Spritz.swap_wf (Spritz.makeRoom_wf h) _ _

theorem Spritz.stopMark_wf {p : Spritz} (h : p.S.wf) : p.stopMark.S.wf := Spritz.makeRoom_wf h

theorem Spritz.squeeze_wf {p : Spritz} (h : p.S.wf) : p.squeeze.S.wf := Spritz.update_wf (Spritz.flush_wf h)

@[simp] theorem Spritz.initial_S : Spritz.initial.S = Memory.ofFn (fun n => n) := rfl

theorem Spritz.initial_wf : Spritz.initial.S.wf := by rw [Spritz.initial_S]; exact Memory.wf_ofFn _

/-- Every command leaves the memory canonical. -/
theorem bodyOf_wf (i : Instr) {p : Spritz} (h : p.S.wf) : (bodyOf i p).1.S.wf := by
  cases i with
  | init => exact Spritz.initial_wf
  | absn x => exact Spritz.nibble_wf h x
  | absb b => exact Spritz.nibble_wf (Spritz.nibble_wf h _) _
  | stop => exact Spritz.stopMark_wf h
  | flush => exact Spritz.flush_wf h
  | drip => exact Spritz.squeeze_wf h
  | xork b => exact Spritz.squeeze_wf h

/-- Reset leaves the memory canonical, whatever its free values. -/
theorem Spritz.unspecified_wf (n : Nat) (r : Option Word) (p : Spritz) : (Spritz.unspecified n r p).S.wf := by
  rw [Spritz.unspecified]
  exact Memory.wf_ofFn (fun e => Config.afterReset n e.toNat p.contents r)

end Sys2Proof.Machine
end

