-- ==== Sys2Proof/Tests/Slice0.lean ====
section
/-! SUPPORT. The model's own tests: sample words written out from the encodings of 30_encoding.md, one-step tests
whose expected values are the spec's worked examples (files 40 to 43 and 95_test_vectors.md), and a witness for the
hypotheses of every statement that has some. -/

namespace Sys2Proof.Tests

open Sys2Proof.Machine

/- One theorem at a time: in parallel, the tests reserve more thread stacks than a limited address space has. -/
set_option Elab.async false

/-! ### Helpers -/

/-- The state right after INIT (40_init.md R65). -/
def ready : State := { State.reset with spritz := Spritz.initial, rdy := true }

/-- `ready` with other index registers, in the order i, j, k, z, a, w. -/
def readyWith (i j k z a w : Byte) : State :=
  { ready with spritz := { Spritz.initial with i := i, j := j, k := k, z := z, a := a, w := w } }

/-- `ready` with the fault flag set. -/
def faulted : State := { ready with flt := true }

/-- The machine goes on, to a state that passes the check. -/
def goesTo (r : Answer) (check : State → Bool) : Bool :=
  match r with
  | .next t => check t
  | .fault _ => false
  | .refused _ => false

/-- The index registers, in the order i, j, k, z, a, w. -/
def regs (p : Spritz) : List Nat := p.registers.map BitVec.toNat

/-! ### Well-formed words: each check of the opcode map refuses an ill-formed word (R53) -/

theorem test_wf_accepts_init : wellFormedWord 0x0100 = true := by decide
theorem test_wf_refuses_opcode_zero : wellFormedWord 0x0000 = false := by decide
theorem test_wf_refuses_opcode_eight : wellFormedWord 0x0800 = false := by decide
theorem test_wf_refuses_init_operand : wellFormedWord 0x0101 = false := by decide
theorem test_wf_refuses_nibble_sixteen : wellFormedWord 0x0210 = false := by decide
theorem test_wf_refuses_stop_operand : wellFormedWord 0x0401 = false := by decide
theorem test_wf_refuses_flush_operand : wellFormedWord 0x0580 = false := by decide
theorem test_wf_refuses_drip_operand : wellFormedWord 0x0601 = false := by decide
theorem test_wf_refuses_all_ones : wellFormedWord 0xFFFF = false := by decide

/-! ### Decoding: words written bit by bit from R46 to R48 and R52 -/

theorem test_decode_init : decode 0b0000000100000000 = .command .init := by decide
theorem test_decode_absn_5 : decode 0b0000001000000101 = .command (.absn 5) := by decide
theorem test_decode_absn_15 : decode 0b0000001000001111 = .command (.absn 15) := by decide
theorem test_decode_absb_41 : decode 0b0000001101000001 = .command (.absb 0x41) := by decide
theorem test_decode_stop : decode 0b0000010000000000 = .command .stop := by decide
theorem test_decode_flush : decode 0b0000010100000000 = .command .flush := by decide
theorem test_decode_drip : decode 0b0000011000000000 = .command .drip := by decide
theorem test_decode_xork_c5 : decode 0b0000011111000101 = .command (.xork 0xC5) := by decide
theorem test_decode_nibble_not_masked : decode 0b0000001000010000 = .illegal .nibbleOutOfRange := by decide
theorem test_decode_opcode_all_bits : decode 0x8100 = .illegal .unassignedOpcode := by decide
theorem test_decode_init_operand : decode 0x01FF = .illegal .nonzeroOperand := by decide
theorem test_decodeTableWord : decodeTableWord 16 0x0341 = some (.absb 0x41) := by decide
theorem test_response_word : responseWord .errNotInit 0x00 = 0x0200 := by decide

/-! ### Micro-operations (41_sequencer_microops.md, examples; 95_test_vectors.md sections 3.3 to 3.7) -/

/-- R71, corner cases: identity `S`, i = 250, j = 200, k = 100, w = 9. -/
theorem test_update_wraps : regs (readyWith 250 200 100 0 0 9).spritz.update = [3, 47, 150, 0, 0, 9] := by
  decide +kernel

/-- R72, example: WHIP(3) after INIT. -/
theorem test_whip_three : regs (Spritz.initial.whip 3) = [3, 17, 29, 0, 0, 3] := by decide +kernel

/-- Section 3.6: WHIP(0) with w = 255. -/
theorem test_whip_zero_wraps : regs ((readyWith 0 0 0 0 0 255).spritz.whip 0) = [0, 0, 0, 0, 0, 1] := by decide +kernel

/-- R73: the pair (127, 128) holding (128, 127) is put in order. -/
theorem test_crushPair_swaps :
    ((Spritz.initial.swap 127 128).crushPair 127).S.read 127 = 127 := by decide +kernel

/-- R73, example: the pair (5, 250) holding (6, 250) is kept. -/
theorem test_crushPair_keeps : ((Spritz.initial.swap 5 6).crushPair 5).S.read 5 = 6 := by decide +kernel

/-- R75, corner case: i = 200, j = 100, k = 250, z = 10. -/
theorem test_output_wraps : (readyWith 200 100 250 10 0 1).spritz.output.z = 48 := by decide +kernel

/-- 95_test_vectors.md section 3.3: SWAP is its own inverse; here back at address 0. -/
theorem test_swap_twice : ((Spritz.initial.swap 0 133).swap 0 133).S.read 0 = 0 := by decide +kernel

/-! ### INIT (40_init.md R65) -/

theorem test_init_after_reset :
    goesTo (step (State.reset.withFetchWord 16 0x0100))
      (fun t => t.responses == [0x0000] && t.rdy && t.spritz.S.read 200 == 200 &&
        regs t.spritz == [0, 0, 0, 0, 0, 1]) = true := by decide +kernel

/-- 95_test_vectors.md program P5: INIT does not clear a fault. -/
theorem test_init_refused_while_faulted :
    goesTo (exec .init faulted) (fun t => t.responses == [0x0300] && t.flt) = true := by decide +kernel

/-! ### ABSN, ABSB, STOP (42_absorb.md examples; 95_test_vectors.md section 3.9) -/

theorem test_absn_5 :
    goesTo (exec (.absn 5) ready) (fun t => t.spritz.S.read 0 == 133 && t.spritz.S.read 133 == 0 &&
      t.spritz.a == 1 && t.responses == [0x0000]) = true := by decide +kernel

/-- A command before INIT (R125; program P4 for DRIP). -/
theorem test_absn_before_init :
    goesTo (step (State.reset.withFetchWord 16 0x0205)) (fun t => t.responses == [0x0200] && t.flt && !t.rdy) = true := by
  decide +kernel

theorem test_absb_41 :
    goesTo (exec (.absb 0x41) ready) (fun t => t.spritz.S.read 0 == 129 && t.spritz.S.read 129 == 0 &&
      t.spritz.S.read 1 == 132 && t.spritz.S.read 132 == 1 && t.spritz.a == 2) = true := by decide +kernel

theorem test_absb_00 :
    goesTo (exec (.absb 0x00) ready) (fun t => t.spritz.S.read 0 == 128 && t.spritz.S.read 1 == 0 &&
      t.spritz.S.read 128 == 1 && t.spritz.a == 2) = true := by decide +kernel

theorem test_stop :
    goesTo (exec .stop ready) (fun t => regs t.spritz == [0, 0, 0, 0, 1, 1] && t.responses == [0x0000]) = true := by
  decide +kernel

/-- R87: from 127 STOP leaves 128 and runs no SHUFFLE (`w` stays 1). -/
theorem test_stop_at_127 :
    goesTo (exec .stop (readyWith 0 0 0 0 127 1)) (fun t => regs t.spritz == [0, 0, 0, 0, 128, 1]) = true := by
  decide +kernel

/-! ### FLUSH, DRIP, XORK (43_output.md examples; 95_test_vectors.md V-D1 and section 3.12) -/

theorem test_flush_nothing_pending :
    goesTo (exec .flush ready) (fun t => regs t.spritz == [0, 0, 0, 0, 0, 1] && t.responses == [0x0000]) = true := by
  decide +kernel

/-- The guard of FLUSH is true of every a but 0, the top value among them (R77). -/
theorem test_flush_guard : (readyWith 0 0 0 0 255 1).spritz.pending = true := by decide +kernel

theorem test_drip_first :
    goesTo (exec .drip ready) (fun t => regs t.spritz == [1, 1, 2, 4, 0, 1] && t.responses == [0x0004]) = true := by
  decide +kernel

theorem test_drip_second :
    goesTo (exec .drip (readyWith 1 1 2 4 0 1)) (fun t => regs t.spritz == [2, 5, 9, 20, 0, 1] &&
      t.spritz.S.read 2 == 5 && t.responses == [0x0014]) = true := by decide +kernel

theorem test_xork_second :
    goesTo (exec (.xork 0xAA) (readyWith 1 1 2 4 0 1)) (fun t => regs t.spritz == [2, 5, 9, 20, 0, 1] &&
      t.responses == [0x00BE]) = true := by decide +kernel

theorem test_xork_refused_while_faulted :
    goesTo (exec (.xork 0x00) faulted) (fun t => t.responses == [0x0300] && t.spritz == ready.spritz) = true := by
  decide +kernel

/-! ### Faults and reset (95_test_vectors.md section 3.13) -/

theorem test_reserved_beats_not_initialised :
    goesTo (command 0x0601 State.reset) (fun t => t.responses == [0x0100] && t.flt) = true := by decide +kernel

theorem test_reserved_while_faulted :
    goesTo (command 0x0601 faulted) (fun t => t.responses == [0x0300] && t.flt) = true := by decide +kernel

theorem test_reset_act :
    goesTo (step { faulted with prog := [.resetDuring 0x0600] })
      (fun t => !t.flt && !t.rdy && t.responses == [] && t.cur == 1) = true := by decide +kernel

/-! ### Host sequences and assembler (R56, R60, R109) -/

theorem test_assembler_absn : asmLine ['A', 'B', 'S', 'N', ' ', '5'] = some [.absn 5] := by decide
theorem test_assembler_xork :
    asmLine ['X', 'O', 'R', 'K', ' ', '0', 'x', 'F', 'F'] = some [.xork 0xFF] := by decide
theorem test_assembler_rejects_nibble : asmLine ['A', 'B', 'S', 'N', ' ', '1', '6'] = none := by decide
theorem test_squeeze_nothing_is_flush : pseudoSqz 0 = [.flush] := by decide
theorem test_length_byte_truncates : lengthByte 256 = 0x00 := by decide
theorem test_xorKeystream_short_destination :
    (xorKeystream [] [0x48] ready).error = some .preconditionViolation := by decide

/-! ### Witnesses: states and operands that meet the hypotheses of each statement -/

/-- The hypothesis of EncodeOfDecodeIsTheWord and of clause 3 of DecoderAgreesWithOpcodeMap. -/
theorem witness_decodes : decode 0x020F = .command (.absn 15) := by decide

/-- The hypotheses of clause 1 of DecoderAgreesWithOpcodeMap, at the last word of a row. -/
theorem witness_row_selects :
    ∃ r ∈ opcodeMap, r.selects 0x07FF = true := ⟨⟨"XORK", 0x0700, 0xFF00⟩, by decide, by decide⟩

/-- The hypotheses of the last clause of ReservedWordsAreIllegal. -/
theorem witness_reserved : wellFormedWord 0x0210 = false ∧ ready.flt = false := by decide

/-- The hypotheses of StepRunsTheDecodedCommand, both clauses. -/
theorem witness_step_decodes :
    (ready.withFetchWord 16 0x07FF).fetch = some (.issue 0x07FF) ∧ decode 0x07FF = .command (.xork 0xFF) ∧
      decodeTableWord 16 0x07FF = some (.xork 0xFF) := by
  refine ⟨State.fetch_present _ _, by decide, by decide⟩

/-- The hypothesis of StepIdlesAtTheEndOfTheProgram, with an empty program and past the end of one. -/
theorem witness_end_of_program :
    ready.prog.length ≤ ready.cur ∧
      ({ ready with prog := [.reset], cur := 2 } : State).prog.length ≤
        ({ ready with prog := [.reset], cur := 2 } : State).cur := by decide

/-- The hypotheses of OneResponsePerWord. -/
theorem witness_issue_steps (c : Word) :
    (ready.present c).fetch = some (.issue c) ∧ ∃ t, step (ready.present c) = .next t := by
  refine ⟨State.fetch_present c ready, ?_⟩
  rw [step_present]
  obtain ⟨t, ht, _⟩ := command_outcome c (ready.present c)
  exact ⟨t, ht⟩

/-- The hypotheses of DataByteOfAResponse, for a DRIP answered OK and for one refused. -/
theorem witness_data_byte :
    (∃ t, command 0x0600 ready = .next t ∧ t.responses = ready.responses ++ [responseWord .ok t.spritz.z]) ∧
      ∃ t, command 0x0600 faulted = .next t ∧ t.responses = faulted.responses ++ [0x0300] :=
  ⟨⟨_, rfl, rfl⟩, ⟨_, rfl, rfl⟩⟩

/-- The memory after INIT is canonical: the hypothesis "canonical" of EveryStepKeepsTheForm. -/
theorem witness_canonical : ready.spritz.S.wf := Spritz.initial_wf

/-- The hypothesis "odd" of WhipUpdatesThenAddsTwo and MicroOperationsPreserveInvariants, at the wrapping value. -/
theorem witness_odd : (readyWith 0 0 0 0 0 255).spritz.strideOdd := by decide

/-- The identity is a permutation: the hypothesis of CrushOrdersEveryMirrorPair and MicroOperationsPreserveInvariants. -/
theorem witness_permutation : ready.spritz.S.isPerm := fun b =>
  ⟨b, Memory.read_ofFn (fun e => e) b, fun n hn => (Memory.read_ofFn (fun e => e) n).symm.trans hn⟩

/-- The address bound of CrushOrdersEveryMirrorPair at both ends. -/
theorem witness_mirror_bounds : (0 : Byte) < 128 ∧ (127 : Byte) < 128 := by decide

/-- The hypotheses of WhipLeavesIAsItFoundIt, clauses 2 and 3. -/
theorem witness_i_zero :
    (∃ t, State.reset.flt = false ∧ exec .init State.reset = .next t) ∧
      ∃ t, Instr.stop ≠ .drip ∧ (∀ b, Instr.stop ≠ .xork b) ∧ ready.spritz.i = 0 ∧ exec .stop ready = .next t :=
  ⟨⟨_, rfl, rfl⟩, ⟨_, by decide, by decide, rfl, rfl⟩⟩

/-- The hypotheses of the statements about admitted commands (AbsnAbsorbsOneNibble to XorkXorsTheKeystreamByte,
SqueezeEqualsDripMany, GuardsAreRedundant), nothing pending. -/
theorem witness_ready : ready.flt = false ∧ ready.rdy = true := by decide

/-- The same with the window full, one short of full, and above any reachable value (10_state.md R26). -/
theorem witness_ready_window :
    (∀ a ∈ ([1, 127, 128, 129, 255] : List Byte),
      (readyWith 0 0 0 0 a 1).flt = false ∧ (readyWith 0 0 0 0 a 1).rdy = true ∧
        (readyWith 0 0 0 0 a 1).spritz.a = a) := by decide

/-- The hypotheses of InitCreatesTheSpritzState (both clauses) and InitErasesHistory: no Spritz state, one that is
no permutation, and a faulted engine. -/
theorem witness_init : State.reset.flt = false ∧ (readyWith 9 8 7 6 200 4).flt = false ∧ faulted.flt = true := by
  decide

/-- The hypotheses of StopAndFlushFrame, AbsorbingCommandsFrame, OutputCommandsFrame and InitFrame. -/
theorem witness_frames :
    ready.spritz.a ≠ 128 ∧ ready.spritz.a ≠ 127 ∧ ready.spritz.a = 0 ∧ ∀ i, ∃ t, exec i ready = .next t :=
  ⟨by decide, by decide, rfl, fun i => (exec_outcome i ready).imp fun _ h => h.1⟩

/-- The hypotheses of CommandsBeforeInitFault. -/
theorem witness_before_init :
    State.reset.flt = false ∧ State.reset.rdy = false ∧ Instr.drip ≠ .init := by decide

/-- The hypothesis of FaultedEngineRefusesEverything. -/
theorem witness_faulted : faulted.flt = true := rfl

/-- The hypotheses of RefusalsRevealNoSpritzState: two engines with equal flags and other Spritz states. -/
theorem witness_same_flags :
    ready.rdy = (readyWith 1 2 3 4 5 6).rdy ∧ ready.flt = (readyWith 1 2 3 4 5 6).flt ∧
      (∃ t, command 0x0000 ready = .next t) ∧ ∃ t, command 0x0000 (readyWith 1 2 3 4 5 6) = .next t :=
  ⟨rfl, rfl, ⟨_, rfl⟩, ⟨_, rfl⟩⟩

/-- The hypotheses of FaultNeverCorruptsTheSpritzState. -/
theorem witness_fault_response :
    ∃ t, command 0x0210 ready = .next t ∧ t.responses = ready.responses ++ [0x0100] ∧
      statusByte 0x0100 ≠ Status.ok.code := ⟨_, rfl, rfl, by decide⟩

/-- The hypotheses of ResetClearsFlagsWithoutResponse, of both kinds. -/
theorem witness_reset_next :
    ({ faulted with prog := [.reset] } : State).resetNext ∧
      ({ faulted with prog := [.resetDuring 0x0600] } : State).resetNext := ⟨.inl rfl, .inr ⟨0x0600, rfl⟩⟩

/-- The hypotheses of the four clauses of OnlyResetClearsTheFlags: a reset of a faulted engine, INIT, a fault. -/
theorem witness_flags_change :
    (∃ t, step { faulted with prog := [.reset] } = .next t ∧ t.rdy = false ∧ t.flt = false) ∧
      (∃ t, step (State.reset.withFetchWord 16 0x0100) = .next t ∧ t.rdy = true) ∧
      ∃ t, step (ready.withFetchWord 16 0x0000) = .next t ∧ t.flt = true :=
  ⟨⟨_, rfl, rfl, rfl⟩, ⟨_, rfl, rfl⟩, ⟨_, rfl, rfl⟩⟩

/-- The hypotheses of EveryStepKeepsTheSpritzInvariants, with a Spritz state. -/
theorem witness_spritz_invariants : ready.SpritzInv ∧ ∃ t, step ready = .next t :=
  ⟨fun _ => ⟨witness_permutation, by decide, by decide⟩, ⟨_, rfl⟩⟩

/-- The hypotheses of EveryStepKeepsTheForm. -/
theorem witness_form : ready.Form ∧ ∃ t, step ready = .next t :=
  ⟨⟨Spritz.initial_wf, by decide, by simp [ready, State.reset]⟩, ⟨_, rfl⟩⟩

/-- The hypotheses of OnlyOutputCommandsWriteZ: a DRIP writes `z`. -/
theorem witness_z_changes :
    goesTo (step (ready.withFetchWord 16 0x0600)) (fun t => t.spritz.z != ready.spritz.z) = true := by decide +kernel

/-- The hypotheses of AtMostOneShufflePerCommand: an absorb command, a guarded one and a refused one. -/
theorem witness_not_init :
    Instr.absb 0x5A ≠ .init ∧ commandMarks (.absb 0x5A) ≠ [] ∧ commandGuarded .drip = true ∧
      (∃ t, exec (.absb 0x5A) ready = .next t) ∧ (∃ t, exec .drip ready = .next t) ∧
      (∃ t, exec .drip faulted = .next t) ∧ ¬ (faulted.flt = false ∧ faulted.rdy = true) :=
  ⟨by decide, by decide, by decide, ⟨_, rfl⟩, ⟨_, rfl⟩, ⟨_, rfl⟩, by decide⟩

/-- The count of SHUFFLEs at the edges of the window: nothing pending, and the window full. -/
theorem witness_shuffle_count :
    commandShuffles .stop (readyWith 0 0 0 0 127 1).spritz = 0 ∧ commandShuffles .stop (readyWith 0 0 0 0 128 1).spritz = 1 ∧
      commandShuffles .flush (readyWith 0 0 0 0 0 1).spritz = 0 ∧ commandShuffles .flush (readyWith 0 0 0 0 1 1).spritz = 1 := by
  decide

/-- The hypotheses of AbsorbCountingLaw. -/
theorem witness_marks : ready.spritz.a = 0 ∧ [AbsorbMark.nibble 3, .stop] ≠ [] := by decide

/-- The hypotheses of AbsorbTouchesOnlyItsEntries, at both ends of the window. -/
theorem witness_absorb :
    ready.spritz.windowBounded ∧ (readyWith 0 0 0 0 128 1).spritz.windowBounded ∧
      (∃ t, exec (.absn 15) ready = .next t) ∧ (∃ t, exec .stop (readyWith 0 0 0 0 127 1) = .next t) ∧
      ∀ b, Instr.stop ≠ .absb b :=
  ⟨by decide, by decide, ⟨_, rfl⟩, ⟨_, rfl⟩, by decide⟩

/-- The hypotheses of GuardsAreRedundant. -/
theorem witness_flush : ∃ u, ready.flt = false ∧ ready.rdy = true ∧ exec .flush ready = .next u :=
  ⟨_, rfl, rfl, rfl⟩

/-- The hypotheses of XorkRoundTrip: two engines in equal Spritz states that differ otherwise. -/
theorem witness_equal_spritz :
    ∃ s', ready ≠ s' ∧ ready.spritz = s'.spritz ∧ ready.flt = false ∧ s'.flt = false ∧ ready.rdy = true ∧
      s'.rdy = true :=
  ⟨{ ready with cur := 1 }, fun h => absurd (congrArg State.cur h) (by decide), rfl, rfl, rfl, rfl, rfl⟩

/-- The hypotheses of RunsEndReadyOrFaulted, for a one-command run. -/
theorem witness_run :
    ∃ s t, ([0x0500] : List Word) ≠ [] ∧ s.prog = ([0x0500] : List Word).map HostAct.issue ∧ s.cur = 0 ∧
      runsTo ([0x0500] : List Word).length s t :=
  ⟨{ ready with prog := ([0x0500] : List Word).map HostAct.issue }, _, by decide, rfl, rfl, _, rfl, rfl⟩

/-- The hypotheses of both clauses of XorKeystreamChecksLengths, at equal lengths and one short. -/
theorem witness_lengths :
    ([0x00] : List Byte).length < ([0x48, 0x69] : List Byte).length ∧
      ([0x48, 0x69] : List Byte).length ≤ ([0x00, 0x00] : List Byte).length ∧ ready.flt = false ∧
      ready.rdy = true := by decide

/-- The domain of HashSumIsDeterministic at both ends. -/
theorem witness_hash_domain :
    8 % 8 = 0 ∧ 8 ≤ 8 ∧ 8 ≤ 2048 ∧ 2048 % 8 = 0 ∧ 2048 ≤ 2048 ∧ ready.flt = false ∧ State.reset.flt = false := by
  decide

/-- The hypothesis of AssemblerEmitsOnlyLegalWords. -/
theorem witness_assembles : assemble [['D', 'R', 'I', 'P', 'M', ' ', '2']] = some [0x0600, 0x0600] := by decide

end Sys2Proof.Tests
end

/-! PROOF. The three invariants of the Spritz state (10_state.md R23, R24, R26): each micro-operation keeps `S` a
permutation and `w` odd, each command keeps the bound on `a`, and so every step keeps all three. -/

namespace Sys2Proof.Machine

/-! ### `S` stays a permutation (R23): SWAP is its only writer but INIT (R11) -/

theorem Memory.isPerm_iff_bijective (m : Memory) : m.isPerm ↔ Function.Bijective m.read :=
  (Function.bijective_iff_existsUnique _).symm

/-- SWAP permutes the addresses: it exchanges two of them. -/
theorem Spritz.read_swap_eq_comp (x y : Byte) (p : Spritz) :
    (p.swap x y).S.read = p.S.read ∘ Equiv.swap x y := by
  funext e
  rw [Spritz.read_swap, Function.comp_apply]
  by_cases hy : y = e
  · rw [if_pos hy, ← hy, Equiv.swap_apply_right]
  · by_cases hx : x = e
    · rw [if_neg hy, if_pos hx, ← hx, Equiv.swap_apply_left]
    · rw [if_neg hy, if_neg hx, Equiv.swap_apply_of_ne_of_ne (Ne.symm hx) (Ne.symm hy)]

theorem Spritz.swap_isPerm {p : Spritz} (h : p.S.isPerm) (x y : Byte) : (p.swap x y).S.isPerm := by
  rw [Memory.isPerm_iff_bijective] at h ⊢
  rw [Spritz.read_swap_eq_comp]
  exact h.comp (Equiv.swap x y).bijective

theorem Spritz.update_isPerm {p : Spritz} (h : p.S.isPerm) : p.update.S.isPerm :=
  Spritz.swap_isPerm (p := p.stepI.stepJ.stepK) h _ _

theorem Spritz.updates_isPerm (r : Nat) {p : Spritz} (h : p.S.isPerm) : (Spritz.updates r p).S.isPerm := by
  induction r generalizing p with
  | zero => exact h
  | succ r ih => exact ih (Spritz.update_isPerm h)

theorem Spritz.whip_isPerm (r : Nat) {p : Spritz} (h : p.S.isPerm) : (p.whip r).S.isPerm :=
  Spritz.updates_isPerm r h

theorem Spritz.crushPair_isPerm {p : Spritz} (h : p.S.isPerm) (v : Byte) : (p.crushPair v).S.isPerm := by
  rw [Spritz.crushPair]
  split
  · exact Spritz.swap_isPerm h _ _
  · exact h

theorem Spritz.crushFrom_isPerm (n : Nat) (v : Byte) {p : Spritz} (h : p.S.isPerm) :
    (Spritz.crushFrom n v p).S.isPerm := by
  induction n generalizing v p with
  | zero => exact h
  | succ n ih => exact ih _ (Spritz.crushPair_isPerm h v)

theorem Spritz.crush_isPerm {p : Spritz} (h : p.S.isPerm) : p.crush.S.isPerm := Spritz.crushFrom_isPerm 128 0 h

theorem Spritz.shuffle_isPerm {p : Spritz} (h : p.S.isPerm) : p.shuffle.S.isPerm := by
  have h1 := Spritz.crush_isPerm (Spritz.whip_isPerm whipCount h)
  have h2 := Spritz.crush_isPerm (Spritz.whip_isPerm whipCount h1)
  have h3 := Spritz.whip_isPerm whipCount h2
  rw [Spritz.shuffle, Spritz.clearWindow_S]
  exact h3

theorem Spritz.initial_isPerm : Spritz.initial.S.isPerm := by
  have identity : Spritz.initial.S.read = id := by
    funext e
    rw [Spritz.initial_S, Memory.read_ofFn, id]
  rw [Memory.isPerm_iff_bijective, identity]
  exact Function.bijective_id

/-! ### `w` stays odd (R24): WHIP is its only writer but INIT (R17) -/

/-- Adding 2 keeps bit 0, also where 255 wraps to 1. -/
theorem Spritz.whip_strideOdd_iff (r : Nat) (p : Spritz) : (p.whip r).strideOdd ↔ p.strideOdd := by
  simp [Spritz.strideOdd, BitVec.getElem_add]

theorem Spritz.crush_strideOdd_iff (p : Spritz) : p.crush.strideOdd ↔ p.strideOdd := by
  rw [Spritz.strideOdd, Spritz.crush_w]

theorem Spritz.clearWindow_strideOdd_iff (p : Spritz) : p.clearWindow.strideOdd ↔ p.strideOdd := by
  rw [Spritz.strideOdd, Spritz.clearWindow_w]

/-- SHUFFLE adds 2 to `w` three times, once for each WHIP (R74). -/
theorem Spritz.shuffle_strideOdd_iff (p : Spritz) : p.shuffle.strideOdd ↔ p.strideOdd := by
  rw [Spritz.shuffle, Spritz.clearWindow_strideOdd_iff, Spritz.whip_strideOdd_iff, Spritz.crush_strideOdd_iff,
    Spritz.whip_strideOdd_iff, Spritz.crush_strideOdd_iff, Spritz.whip_strideOdd_iff]

/-! ### The commands keep all three -/

theorem Spritz.Inv.initial : Spritz.initial.Inv where
  perm := Spritz.initial_isPerm
  odd := by decide
  window := by decide

theorem Spritz.Inv.swap {p : Spritz} (h : p.Inv) (x y : Byte) : (p.swap x y).Inv where
  perm := Spritz.swap_isPerm h.perm x y
  odd := h.odd
  window := h.window

/-- UPDATE writes neither `a` nor `w`. -/
theorem Spritz.Inv.update {p : Spritz} (h : p.Inv) : p.update.Inv where
  perm := Spritz.update_isPerm h.perm
  odd := h.odd
  window := h.window

/-- OUTPUT writes `z` only. -/
theorem Spritz.Inv.output {p : Spritz} (h : p.Inv) : p.output.Inv where
  perm := h.perm
  odd := h.odd
  window := h.window

theorem Spritz.Inv.shuffle {p : Spritz} (h : p.Inv) : p.shuffle.Inv where
  perm := Spritz.shuffle_isPerm h.perm
  odd := (Spritz.shuffle_strideOdd_iff p).2 h.odd
  window := by rw [Spritz.windowBounded, Spritz.shuffle_a]; decide

theorem Spritz.Inv.makeRoom {p : Spritz} (h : p.Inv) : p.makeRoom.Inv := by
  rcases p.makeRoom_cases with ⟨_, hm⟩ | ⟨_, hm⟩ <;> rw [hm]
  · exact h.shuffle
  · exact h

/-- After the window test there is room for one more mark (R26). -/
theorem Spritz.makeRoom_a_lt {p : Spritz} (h : p.windowBounded) : p.makeRoom.a < 128 := by
  rcases p.makeRoom_cases with ⟨_, hm⟩ | ⟨hne, hm⟩ <;> rw [hm]
  · rw [Spritz.shuffle_a]; decide
  · have bound : p.a ≤ 128 := h
    bv_omega

theorem Spritz.Inv.countOne {p : Spritz} (h : p.Inv) (room : p.a < 128) : p.countOne.Inv where
  perm := h.perm
  odd := h.odd
  window := by rw [Spritz.windowBounded, Spritz.countOne_a]; bv_omega

theorem Spritz.Inv.nibble {p : Spritz} (h : p.Inv) (x : Nibble) : (p.nibble x).Inv :=
  (h.makeRoom.swap _ _).countOne (Spritz.makeRoom_a_lt h.window)

theorem Spritz.Inv.stopMark {p : Spritz} (h : p.Inv) : p.stopMark.Inv :=
  h.makeRoom.countOne (Spritz.makeRoom_a_lt h.window)

theorem Spritz.Inv.flush {p : Spritz} (h : p.Inv) : p.flush.Inv := by
  rcases p.flush_cases with ⟨_, hm, _⟩ | ⟨_, hm⟩ <;> rw [hm]
  · exact h.shuffle
  · exact h

theorem Spritz.Inv.squeeze {p : Spritz} (h : p.Inv) : p.squeeze.Inv := h.flush.update.output

/-- INIT establishes the invariants from any Spritz state; every other command keeps them. -/
theorem bodyOf_inv {i : Instr} {p : Spritz} (h : i = .init ∨ p.Inv) : (bodyOf i p).1.Inv := by
  rcases h with rfl | hp
  · exact Spritz.Inv.initial
  · cases i with
    | init => exact Spritz.Inv.initial
    | absn x => exact hp.nibble x
    | absb b => exact (hp.nibble _).nibble _
    | stop => exact hp.stopMark
    | flush => exact hp.flush
    | drip => exact hp.squeeze
    | xork b => exact hp.squeeze

/-! ### Every step keeps them -/

/-- An answer that leaves the Spritz state and `rdy` keeps the invariants. -/
theorem State.SpritzInv.congr {s t : State} (h : s.SpritzInv) (hp : t.spritz = s.spritz) (hr : t.rdy = s.rdy) :
    t.SpritzInv := by
  rw [State.SpritzInv, hp, hr]
  exact h

theorem ExecOutcome.spritzInv {i : Instr} {s t : State} (o : ExecOutcome i s t) (h : s.SpritzInv) :
    t.SpritzInv := by
  cases o with
  | refused _ => exact h.congr (by simp) (by simp)
  | notInit _ _ _ => exact h.congr (by simp) (by simp)
  | ran _ hr =>
    intro _
    rw [State.ran_spritz]
    exact bodyOf_inv (hr.imp_right h)

theorem State.SpritzInv.illegalWord {s : State} (h : s.SpritzInv) : s.illegalWord.SpritzInv := by
  rw [State.illegalWord]
  split
  · exact h.congr (by simp) (by simp)
  · exact h.congr (by simp) (by simp)

theorem command_spritzInv {c : Word} {s t : State} (h : s.SpritzInv) (hc : command c s = .next t) :
    t.SpritzInv := by
  rcases command_cases hc with ⟨_, _, rfl⟩ | ⟨_, _, outcome⟩
  · exact h.illegalWord
  · exact outcome.spritzInv h

/-- After a reset there is no Spritz state, so nothing is claimed of its free values (R25). -/
theorem State.hardReset_advance_spritzInv (r : Option Word) (s : State) : (s.hardReset r).advance.SpritzInv := by
  intro hr
  rw [State.advance_rdy, State.hardReset_rdy] at hr
  cases hr

/-- Settles O42: a step is idle, a reset or a command word, and each of the three keeps the invariants. -/
theorem everyStepKeepsTheSpritzInvariants : Obligations.EveryStepKeepsTheSpritzInvariants := by
  intro s t h hs
  rcases step_cases hs with ⟨_, rfl⟩ | ⟨c, _, hc⟩ | ⟨_, r, rfl⟩
  · exact h
  · exact command_spritzInv h hc
  · exact State.hardReset_advance_spritzInv r s

end Sys2Proof.Machine

/-! PROOF. The encoding (30_encoding.md R45 to R53): a word is its two fields, a command has exactly one word, and the
rows of the opcode map select exactly the words of commands, 532 of the 65536. -/

namespace Sys2Proof

/-! ### A word is its two fields (R45), an operand byte its two nibbles (R48) -/

/-- A concatenation is determined by its two parts. -/
theorem append_eq_iff_extract {n m : Nat} (x : BitVec n) (y : BitVec m) (z : BitVec (n + m)) :
    x ++ y = z ↔ z.extractLsb' m n = x ∧ z.extractLsb' 0 m = y := by
  constructor
  · rintro rfl
    exact ⟨BitVec.extractLsb'_append_eq_left, BitVec.extractLsb'_append_eq_right⟩
  · rintro ⟨rfl, rfl⟩
    rw [BitVec.extractLsb'_append_extractLsb'_eq_extractLsb' (by omega), BitVec.extractLsb'_eq_self]

theorem packWord_eq_iff (op imm : Byte) (c : Word) : packWord op imm = c ↔ opField c = op ∧ immField c = imm :=
  append_eq_iff_extract op imm c

@[simp] theorem opField_packWord (op imm : Byte) : opField (packWord op imm) = op :=
  ((packWord_eq_iff op imm _).1 rfl).1

@[simp] theorem immField_packWord (op imm : Byte) : immField (packWord op imm) = imm :=
  ((packWord_eq_iff op imm _).1 rfl).2

theorem word_ext_iff (c d : Word) : c = d ↔ opField c = opField d ∧ immField c = immField d := by
  rw [← (packWord_eq_iff _ _ d).2 ⟨rfl, rfl⟩, eq_comm, packWord_eq_iff, opField_packWord, immField_packWord]

theorem nibbles_eq_iff (x : Nibble) (imm : Byte) :
    (0 : Nibble) ++ x = imm ↔ imm.extractLsb' 4 4 = 0 ∧ imm.extractLsb' 0 4 = x :=
  append_eq_iff_extract 0 x imm

/-! ### The decoder reads a command exactly from the command's word (R53) -/

theorem decodeN_eq_command_iff (imm : Byte) (i j : Instr) : decodeN imm i = .command j ↔ imm = 0x00 ∧ i = j := by
  rw [decodeN]
  split
  · simp only [Decoded.command.injEq, *, true_and]
  · simp only [reduceCtorEq, *, false_and]

theorem decodeX_eq_command_iff (imm : Byte) (j : Instr) :
    decodeX imm = .command j ↔ imm.extractLsb' 4 4 = 0 ∧ .absn (imm.extractLsb' 0 4) = j := by
  rw [decodeX]
  split
  · simp only [Decoded.command.injEq, *, true_and]
  · simp only [reduceCtorEq, *, false_and]

theorem encode_of_decodeN {c : Word} {op : Byte} {i j : Instr} (hword : encode i = packWord op 0x00)
    (hop : opField c = op) (h : decodeN (immField c) i = .command j) : encode j = c := by
  obtain ⟨himm, rfl⟩ := (decodeN_eq_command_iff _ _ _).1 h
  rw [hword, packWord_eq_iff]
  exact ⟨hop, himm⟩

theorem encode_of_decode {c : Word} {i : Instr} (h : decode c = .command i) : encode i = c := by
  unfold decode at h
  split_ifs at h with h1 h2 h3 h4 h5 h6 h7
  · exact encode_of_decodeN rfl h1 h
  · obtain ⟨hhigh, rfl⟩ := (decodeX_eq_command_iff _ _).1 h
    exact (packWord_eq_iff _ _ c).2 ⟨h2, ((nibbles_eq_iff _ _).2 ⟨hhigh, rfl⟩).symm⟩
  · cases h
    exact (packWord_eq_iff _ _ c).2 ⟨h3, rfl⟩
  · exact encode_of_decodeN rfl h4 h
  · exact encode_of_decodeN rfl h5 h
  · exact encode_of_decodeN rfl h6 h
  · cases h
    exact (packWord_eq_iff _ _ c).2 ⟨h7, rfl⟩

theorem decode_of_encode (i : Instr) : decode (encode i) = .command i := by
  cases i with
  | init => decide
  | absn x =>
    obtain ⟨hhigh, hlow⟩ := (nibbles_eq_iff x _).1 rfl
    simp only [decode, encode, opField_packWord, immField_packWord]
    exact (decodeX_eq_command_iff _ _).2 ⟨hhigh, congrArg _ hlow⟩
  | absb b => simp [encode, decode]
  | stop => decide
  | flush => decide
  | drip => decide
  | xork b => simp [encode, decode]

theorem decode_eq_command_iff (c : Word) (i : Instr) : decode c = .command i ↔ encode i = c :=
  ⟨encode_of_decode, fun h => h ▸ decode_of_encode i⟩

theorem encode_injective : Function.Injective encode := fun i j h =>
  Decoded.command.inj (by rw [← decode_of_encode i, h, decode_of_encode])

theorem exists_illegal_iff (c : Word) : (∃ why, decode c = .illegal why) ↔ ¬ ∃ i, decode c = .command i := by
  cases decode c <;> simp

/-! ### The rows of the opcode map (R52) -/

/-- `c AND mask = match`, field by field. -/
theorem OpcodeRow.selects_iff (r : OpcodeRow) (c : Word) :
    r.selects c = true ↔
      opField c &&& opField r.mask = opField r.pattern ∧ immField c &&& immField r.mask = immField r.pattern := by
  rw [OpcodeRow.selects, beq_iff_eq, word_ext_iff]
  simp only [opField, immField, BitVec.extractLsb'_and]

theorem Instr.row_mem (i : Instr) : i.row ∈ opcodeMap := by
  cases i <;> simp [Instr.row, opcodeMap]

/-- `Laws.OwnRow`, for every command at once. -/
theorem selects_encode_iff (i : Instr) : ∀ r ∈ opcodeMap, r.selects (encode i) = true ↔ r = i.row :=
  match i with
  | .init => Laws.OwnRow.init
  | .absn x => Laws.OwnRow.absn x
  | .absb b => Laws.OwnRow.absb b
  | .stop => Laws.OwnRow.stop
  | .flush => Laws.OwnRow.flush
  | .drip => Laws.OwnRow.drip
  | .xork b => Laws.OwnRow.xork b

/-- A row of format N selects one word (R46). -/
theorem selects_formatN_iff (m : String) (op : Byte) (c : Word) :
    (OpcodeRow.mk m (packWord op 0x00) 0xFFFF).selects c = true ↔ packWord op 0x00 = c := by
  have hop : opField 0xFFFF = BitVec.allOnes 8 := by decide
  have himm : immField 0xFFFF = BitVec.allOnes 8 := by decide
  rw [OpcodeRow.selects_iff, packWord_eq_iff, hop, himm, BitVec.and_allOnes, BitVec.and_allOnes, opField_packWord,
    immField_packWord]

/-- A row of format B selects by the opcode field alone (R47). -/
theorem selects_formatB_iff (m : String) (op : Byte) (c : Word) :
    (OpcodeRow.mk m (packWord op 0x00) 0xFF00).selects c = true ↔ packWord op (immField c) = c := by
  have hop : opField 0xFF00 = BitVec.allOnes 8 := by decide
  have himm : immField 0xFF00 = 0#8 := by decide
  rw [OpcodeRow.selects_iff, packWord_eq_iff, hop, himm, BitVec.and_allOnes, BitVec.and_zero, opField_packWord,
    immField_packWord]
  exact and_congr_right fun _ => iff_of_true rfl rfl

/-- The mask 0xF0 keeps the high nibble of an operand byte. -/
theorem and_highMask_eq_zero_iff (imm : Byte) : imm &&& 0xF0 = 0x00 ↔ imm.extractLsb' 4 4 = 0 := by
  have hhigh : (0xF0 : Byte).extractLsb' 4 4 = BitVec.allOnes 4 := by decide
  have hlow : (0xF0 : Byte).extractLsb' 0 4 = 0#4 := by decide
  have hzero : (0x00 : Byte) = (0 : Nibble) ++ (0 : Nibble) := by decide
  rw [hzero, eq_comm, nibbles_eq_iff, BitVec.extractLsb'_and, BitVec.extractLsb'_and, hhigh, hlow,
    BitVec.and_allOnes, BitVec.and_zero]
  exact and_iff_left rfl

/-- A row of format X selects by the opcode field and the high nibble of the operand byte (R48). -/
theorem selects_formatX_iff (m : String) (op : Byte) (c : Word) :
    (OpcodeRow.mk m (packWord op 0x00) 0xFFF0).selects c = true ↔
      packWord op ((0 : Nibble) ++ (immField c).extractLsb' 0 4) = c := by
  have hop : opField 0xFFF0 = BitVec.allOnes 8 := by decide
  have himm : immField 0xFFF0 = 0xF0 := by decide
  rw [OpcodeRow.selects_iff, packWord_eq_iff, hop, himm, BitVec.and_allOnes, opField_packWord, immField_packWord,
    and_highMask_eq_zero_iff, eq_comm (a := immField c), nibbles_eq_iff, and_iff_left rfl]

theorem exists_encode_of_selects {r : OpcodeRow} (hr : r ∈ opcodeMap) {c : Word} (hc : r.selects c = true) :
    ∃ i, encode i = c := by
  simp only [opcodeMap, List.mem_cons, List.not_mem_nil, or_false] at hr
  rcases hr with rfl | rfl | rfl | rfl | rfl | rfl | rfl
  · exact ⟨.init, (selects_formatN_iff _ 0x01 c).1 hc⟩
  · exact ⟨.absn ((immField c).extractLsb' 0 4), (selects_formatX_iff _ 0x02 c).1 hc⟩
  · exact ⟨.absb (immField c), (selects_formatB_iff _ 0x03 c).1 hc⟩
  · exact ⟨.stop, (selects_formatN_iff _ 0x04 c).1 hc⟩
  · exact ⟨.flush, (selects_formatN_iff _ 0x05 c).1 hc⟩
  · exact ⟨.drip, (selects_formatN_iff _ 0x06 c).1 hc⟩
  · exact ⟨.xork (immField c), (selects_formatB_iff _ 0x07 c).1 hc⟩

theorem wellFormedWord_iff_exists_encode (c : Word) : wellFormedWord c = true ↔ ∃ i, encode i = c := by
  rw [wellFormedWord, List.any_eq_true]
  constructor
  · rintro ⟨r, hr, hc⟩
    exact exists_encode_of_selects hr hc
  · rintro ⟨i, rfl⟩
    exact ⟨i.row, i.row_mem, (selects_encode_iff i _ i.row_mem).2 rfl⟩

theorem wellFormedWord_iff_decodes (c : Word) : wellFormedWord c = true ↔ ∃ i, decode c = .command i := by
  simp only [wellFormedWord_iff_exists_encode, decode_eq_command_iff]

theorem opcodeMap_disjoint {c : Word} {r r' : OpcodeRow} (hr : r ∈ opcodeMap) (hr' : r' ∈ opcodeMap)
    (hc : r.selects c = true) (hc' : r'.selects c = true) : r = r' := by
  obtain ⟨i, rfl⟩ := exists_encode_of_selects hr hc
  rw [(selects_encode_iff i r hr).1 hc, (selects_encode_iff i r' hr').1 hc']

/-! ### How many words are legal (R52) -/

/-- A command is its row and the row's operand. -/
def Instr.rowAndOperand : Instr ≃ Unit ⊕ Nibble ⊕ Byte ⊕ Unit ⊕ Unit ⊕ Unit ⊕ Byte where
  toFun
    | .init => .inl ()
    | .absn x => .inr (.inl x)
    | .absb b => .inr (.inr (.inl b))
    | .stop => .inr (.inr (.inr (.inl ())))
    | .flush => .inr (.inr (.inr (.inr (.inl ()))))
    | .drip => .inr (.inr (.inr (.inr (.inr (.inl ())))))
    | .xork b => .inr (.inr (.inr (.inr (.inr (.inr b)))))
  invFun
    | .inl () => .init
    | .inr (.inl x) => .absn x
    | .inr (.inr (.inl b)) => .absb b
    | .inr (.inr (.inr (.inl ()))) => .stop
    | .inr (.inr (.inr (.inr (.inl ())))) => .flush
    | .inr (.inr (.inr (.inr (.inr (.inl ()))))) => .drip
    | .inr (.inr (.inr (.inr (.inr (.inr b))))) => .xork b
  left_inv i := by cases i <;> rfl
  right_inv := by rintro (_ | _ | _ | _ | _ | _ | _) <;> rfl

theorem card_bitVec (n : Nat) : Nat.card (BitVec n) = 2 ^ n := by
  rw [Nat.card_eq_fintype_card, ← FinEnum.card_eq_fintypeCard, FinEnum.card_bitVec]

theorem card_instr : Nat.card Instr = 1 + 16 + 256 + 1 + 1 + 1 + 256 := by
  rw [Nat.card_congr Instr.rowAndOperand]
  simp only [Nat.card_sum, card_bitVec, Nat.card_unique]
  norm_num

theorem card_wellFormedWords : (Finset.univ.filter (fun c : Word => wellFormedWord c = true)).card = 532 := by
  calc (Finset.univ.filter (fun c : Word => wellFormedWord c = true)).card
      = Nat.card (Set.range encode) := by
        rw [← Set.ncard_coe_finset, Nat.card_coe_set_eq]
        congr 1
        ext c
        simp [wellFormedWord_iff_exists_encode]
    _ = 532 := by rw [Nat.card_range_of_injective encode_injective, card_instr]

theorem card_reservedWords : (Finset.univ.filter (fun c : Word => wellFormedWord c = false)).card = 65004 := by
  have hcompl : Finset.univ.filter (fun c : Word => wellFormedWord c = false) =
      (Finset.univ.filter (fun c : Word => wellFormedWord c = true))ᶜ := by
    ext c
    simp
  rw [hcompl, Finset.card_compl, card_wellFormedWords, ← Nat.card_eq_fintype_card, card_bitVec]
  norm_num

/-! ### The reserved words (R53) -/

theorem exists_illegal_decodeN_iff (imm : Byte) (i : Instr) :
    (∃ why, decodeN imm i = .illegal why) ↔ imm ≠ 0x00 := by
  rw [decodeN]
  split
  next h => simp [h]
  next h => exact iff_of_true ⟨_, rfl⟩ h

theorem exists_illegal_decodeX_iff (imm : Byte) :
    (∃ why, decodeX imm = .illegal why) ↔ imm.extractLsb' 4 4 ≠ 0 := by
  rw [decodeX]
  split
  next h => simp [h]
  next h => exact iff_of_true ⟨_, rfl⟩ h

/-- The three classes of reserved words: an unassigned opcode, an operand where none belongs, a nibble above 15. -/
theorem exists_illegal_iff_listed (c : Word) : (∃ why, decode c = .illegal why) ↔
    (opField c = 0x00 ∨ 0x08 ≤ opField c ∨
      ((opField c = 0x01 ∨ opField c = 0x04 ∨ opField c = 0x05 ∨ opField c = 0x06) ∧ immField c ≠ 0x00) ∨
      (opField c = 0x02 ∧ (immField c).extractLsb' 4 4 ≠ 0)) := by
  unfold decode
  split_ifs with h1 h2 h3 h4 h5 h6 h7
  · simp [h1, exists_illegal_decodeN_iff]
  · simp [h2, exists_illegal_decodeX_iff]
  · simp [h3]
  · simp [h4, exists_illegal_decodeN_iff]
  · simp [h5, exists_illegal_decodeN_iff]
  · simp [h6, exists_illegal_decodeN_iff]
  · simp [h7]
  · have unassigned : opField c = 0x00 ∨ 0x08 ≤ opField c := by bv_omega
    exact iff_of_true ⟨_, rfl⟩ (unassigned.imp_right .inl)

theorem exists_illegal_iff_not_wellFormedWord (c : Word) :
    (∃ why, decode c = .illegal why) ↔ wellFormedWord c = false := by
  rw [exists_illegal_iff, ← wellFormedWord_iff_decodes, Bool.not_eq_true]

/-! ### The decoder's lines, field by field (R53) -/

/-- The line of a command whose word is `{op, imm}`. -/
theorem decode_eq_command_iff_fields {i : Instr} {op imm : Byte} (hword : encode i = packWord op imm) (c : Word) :
    decode c = .command i ↔ opField c = op ∧ immField c = imm := by
  rw [decode_eq_command_iff, hword, packWord_eq_iff]

theorem decode_eq_absn_iff (c : Word) (x : Nibble) : decode c = .command (.absn x) ↔
    opField c = 0x02 ∧ (immField c).extractLsb' 4 4 = 0 ∧ (immField c).extractLsb' 0 4 = x := by
  rw [decode_eq_command_iff_fields rfl, eq_comm (a := immField c), nibbles_eq_iff]

/-- The low nibble of the operand byte is that of the word (R45, R48). -/
theorem low_nibble_immField (c : Word) : (immField c).extractLsb' 0 4 = c.extractLsb' 0 4 := by
  ext i hi
  simp [immField]

/-- Settles O3: a selected word is some command's word, and a command's word is selected by its own row only. -/
theorem decoderAgreesWithOpcodeMap : Obligations.DecoderAgreesWithOpcodeMap := by
  refine ⟨fun c r hr r' hr' => opcodeMap_disjoint hr hr', wellFormedWord_iff_decodes, ?_, ?_, ?_,
    card_wellFormedWords⟩
  · rintro c i h
    rw [← encode_of_decode h]
    exact ⟨i.row_mem, (selects_encode_iff i _ i.row_mem).2 rfl⟩
  · intro c x h
    obtain ⟨_, _, hlow⟩ := (decode_eq_absn_iff c x).1 h
    rw [← hlow, low_nibble_immField]
  · rintro c b (h | h)
    · obtain ⟨_, himm⟩ := (decode_eq_command_iff_fields rfl c).1 h
      exact himm.symm
    · obtain ⟨_, himm⟩ := (decode_eq_command_iff_fields rfl c).1 h
      exact himm.symm

end Sys2Proof

/-! PROOF. Responses (30_encoding.md R49 to R51): what each answer of the engine appends, said once for every command
word, and so the one response per word, its data byte, and the fault a reserved word raises (R53). -/

namespace Sys2Proof.Machine

/-! ### Every word is answered by one response (R49) -/

theorem State.answered_refuse (s : State) : s.Answered s.refuse .errFaulted 0x00 where
  responses := s.refuse_responses
  cur := s.refuse_cur
  prog := s.refuse_prog
  resets := s.refuse_resets

theorem State.answered_raiseFault (code : Status) (s : State) : s.Answered (s.raiseFault code) code 0x00 where
  responses := s.raiseFault_responses code
  cur := s.raiseFault_cur code
  prog := s.raiseFault_prog code
  resets := s.raiseFault_resets code

theorem State.answered_ran (i : Instr) (s : State) : s.Answered (s.ran i) .ok (bodyOf i s.spritz).2 where
  responses := s.ran_responses i
  cur := s.ran_cur i
  prog := s.ran_prog i
  resets := s.ran_resets i

theorem State.illegalWord_of_not_flt {s : State} (h : s.flt = false) : s.illegalWord = s.raiseFault .errIllegal := by
  simp [State.illegalWord, h]

/-- A reserved word gets an error response with data 0x00, whichever of the two errors it is (R128, R129). -/
theorem State.answered_illegalWord (s : State) : ∃ st, st ≠ .ok ∧ s.Answered s.illegalWord st 0x00 := by
  rw [State.illegalWord]
  split
  · exact ⟨.errFaulted, by decide, s.answered_refuse⟩
  · exact ⟨.errIllegal, by decide, s.answered_raiseFault _⟩

theorem command_of_reserved {c : Word} (h : wellFormedWord c = false) (s : State) :
    command c s = .next s.illegalWord := by
  obtain ⟨why, hd⟩ := (exists_illegal_iff_not_wellFormedWord c).2 h
  rw [command, hd]

/-- What the engine answers to a word: OK to a command that ran, else an error response with data 0x00. -/
theorem command_answered {c : Word} {s t : State} (h : command c s = .next t) :
    (∃ i, decode c = .command i ∧ t = s.ran i) ∨ ∃ st, st ≠ .ok ∧ s.Answered t st 0x00 := by
  rcases command_cases h with ⟨_, _, rfl⟩ | ⟨i, hd, outcome⟩
  · exact .inr s.answered_illegalWord
  · cases outcome with
    | refused _ => exact .inr ⟨.errFaulted, by decide, s.answered_refuse⟩
    | notInit _ _ _ => exact .inr ⟨.errNotInit, by decide, s.answered_raiseFault _⟩
    | ran _ _ => exact .inl ⟨i, hd, rfl⟩

/-! ### The responses are legal ones (R50, R51) -/

theorem legalResponse_ok (d : Byte) : legalResponse (responseWord .ok d) := by
  rw [legalResponse, statusByte_responseWord]
  exact ⟨Status.code_le _, fun h => absurd rfl h⟩

theorem legalResponse_no_data (st : Status) : legalResponse (responseWord st 0x00) :=
  ⟨(statusByte_responseWord st _).symm ▸ st.code_le, fun _ => dataByte_responseWord st _⟩

/-! ### The statements -/

/-- A step on a presented word is the engine's answer to it. -/
theorem step_of_fetch_issue {s : State} {c : Word} (h : s.fetch = some (.issue c)) : step s = command c s := by
  rw [step, h]
  rfl

/-- Settles O4: the lines are the commands' words, and a reserved word reaches no meaning but the fault. -/
theorem reservedWordsAreIllegal : Obligations.ReservedWordsAreIllegal := by
  refine ⟨fun c => ⟨decode_eq_command_iff_fields rfl c, decode_eq_absn_iff c,
      fun _ => decode_eq_command_iff_fields rfl c, decode_eq_command_iff_fields rfl c,
      decode_eq_command_iff_fields rfl c, decode_eq_command_iff_fields rfl c,
      fun _ => decode_eq_command_iff_fields rfl c⟩,
    exists_illegal_iff, exists_illegal_iff_not_wellFormedWord, exists_illegal_iff_listed, card_reservedWords, ?_⟩
  intro c s hc hf
  refine ⟨s.raiseFault .errIllegal, ?_, s.answered_raiseFault _, s.raiseFault_flt _, s.raiseFault_rdy _,
    s.raiseFault_spritz _⟩
  rw [command_of_reserved hc, State.illegalWord_of_not_flt hf]

/-- Settles O9: a command that ran and a word refused or faulted each append one legal response. -/
theorem oneResponsePerWord : Obligations.OneResponsePerWord := by
  intro s t c hfetch hstep
  rw [step_of_fetch_issue hfetch] at hstep
  rcases command_answered hstep with ⟨i, _, rfl⟩ | ⟨st, _, answered⟩
  · have answered := s.answered_ran i
    exact ⟨_, answered.responses, legalResponse_ok _, answered.cur, answered.prog⟩
  · exact ⟨_, answered.responses, legalResponse_no_data st, answered.cur, answered.prog⟩

/-- Settles O10: only a command that ran answers OK, and its data byte is the one its body returns. -/
theorem dataByteOfAResponse : Obligations.DataByteOfAResponse := by
  intro s t c h
  rcases command_answered h with ⟨i, hd, rfl⟩ | ⟨st, hst, answered⟩
  · refine ⟨_, (s.answered_ran i).responses, fun herr => absurd (statusByte_responseWord _ _) herr,
      fun _ => ⟨i, hd, ?_⟩⟩
    rw [dataByte_responseWord, State.ran_spritz]
    cases i <;> rfl
  · refine ⟨_, answered.responses, fun _ => dataByte_responseWord st _, fun hok => ?_⟩
    rw [statusByte_responseWord] at hok
    exact absurd (Status.code_injective hok) hst

end Sys2Proof.Machine

/-! PROOF. INIT (40_init.md R65, R66): what an admitted and what a refused command leaves, said once for every command;
the engine's answers to any words depend on its Spritz state and flags alone, which INIT writes whole. -/

namespace Sys2Proof.Machine

/-! ### Which of its three answers a command gives (60_exceptions.md R129) -/

theorem exec_of_flt (i : Instr) {s : State} (hf : s.flt = true) : exec i s = .next s.refuse := by
  obtain ⟨t, ht, outcome⟩ := exec_outcome i s
  rw [ht]
  cases outcome with
  | refused _ => rfl
  | notInit hf' _ _ => simp [hf] at hf'
  | ran hf' _ => simp [hf] at hf'

theorem exec_of_not_rdy {i : Instr} {s : State} (hf : s.flt = false) (hr : s.rdy = false) (hi : i ≠ .init) :
    exec i s = .next (s.raiseFault .errNotInit) := by
  obtain ⟨t, ht, outcome⟩ := exec_outcome i s
  rw [ht]
  cases outcome with
  | refused hf' => simp [hf] at hf'
  | notInit _ _ _ => rfl
  | ran _ hr' => exact absurd hr' (by simp [hi, hr])

theorem exec_of_admitted {i : Instr} {s : State} (hf : s.flt = false) (hr : i = .init ∨ s.rdy = true) :
    exec i s = .next (s.ran i) := by
  obtain ⟨t, ht, outcome⟩ := exec_outcome i s
  rw [ht]
  cases outcome with
  | refused hf' => simp [hf] at hf'
  | notInit _ hr' hi => exact absurd hr (by simp [hi, hr'])
  | ran _ _ => rfl

theorem State.executed_ran (i : Instr) {s : State} (hf : s.flt = false) :
    s.Executed (s.ran i) (bodyOf i s.spritz).2 where
  answered := s.answered_ran i
  rdy := s.ran_rdy i
  flt := (s.ran_flt i).trans hf

/-! ### What INIT writes (R65) -/

theorem State.ran_init_spritz (s : State) : (s.ran .init).spritz = Spritz.initial := s.ran_spritz .init

theorem Spritz.read_initial (n : Byte) : Spritz.initial.S.read n = n := by
  rw [Spritz.initial_S, Memory.read_ofFn]

/-- Settles O19: INIT reads `flt` only, and what it writes is `Spritz.initial`. -/
theorem initCreatesTheSpritzState : Obligations.InitCreatesTheSpritzState := by
  refine ⟨rfl, fun s hf => ?_, fun s hf => ?_⟩
  · exact ⟨s.refuse, exec_of_flt _ hf, s.answered_refuse, s.refuse_flt.trans hf, s.refuse_rdy, s.refuse_spritz⟩
  · refine ⟨s.ran .init, exec_of_admitted hf (.inl rfl), s.executed_ran .init hf, ?_⟩
    rw [s.ran_init_spritz]
    exact ⟨Spritz.read_initial, rfl, rfl, rfl, rfl, rfl, rfl⟩

/-! ### Engines with equal Spritz states and flags answer alike (R66) -/

/-- Two machines whose engines hold the same; the hosts' programs and the responses so far may differ. -/
structure State.SameEngine (s s' : State) : Prop where
  spritz : s'.spritz = s.spritz
  rdy : s'.rdy = s.rdy
  flt : s'.flt = s.flt

/-- From `s` to `t` and from `s'` to `t'` one and the same response is delivered, and the engines agree after it. -/
structure State.SameReply (s s' t t' : State) : Prop where
  engine : t.SameEngine t'
  reply : ∃ r, t.responses = s.responses ++ [r] ∧ t'.responses = s'.responses ++ [r]

theorem State.SameEngine.refl (s : State) : s.SameEngine s := ⟨rfl, rfl, rfl⟩

section SameEngine
variable {s s' : State} (e : s.SameEngine s')
include e

theorem State.SameEngine.present (c : Word) : (s.present c).SameEngine (s'.present c) where
  spritz := by simp [e.spritz]
  rdy := by simp [e.rdy]
  flt := by simp [e.flt]

theorem State.SameEngine.refuse : s.SameReply s' s.refuse s'.refuse where
  engine := ⟨by simp [e.spritz], by simp [e.rdy], by simp [e.flt]⟩
  reply := ⟨_, s.refuse_responses, s'.refuse_responses⟩

theorem State.SameEngine.raiseFault (code : Status) : s.SameReply s' (s.raiseFault code) (s'.raiseFault code) where
  engine := ⟨by simp [e.spritz], by simp [e.rdy], by simp⟩
  reply := ⟨_, s.raiseFault_responses code, s'.raiseFault_responses code⟩

theorem State.SameEngine.illegalWord : s.SameReply s' s.illegalWord s'.illegalWord := by
  rw [State.illegalWord, State.illegalWord, e.flt]
  split
  · exact e.refuse
  · exact e.raiseFault _

theorem State.SameEngine.ran (i : Instr) : s.SameReply s' (s.ran i) (s'.ran i) where
  engine := ⟨by simp [e.spritz], by simp, by simp [e.flt]⟩
  reply := ⟨_, s.ran_responses i, by rw [State.ran_responses, e.spritz]⟩

theorem State.SameEngine.exec (i : Instr) :
    ∃ t t', exec i s = .next t ∧ exec i s' = .next t' ∧ s.SameReply s' t t' := by
  obtain ⟨t, ht, outcome⟩ := exec_outcome i s
  cases outcome with
  | refused hf => exact ⟨_, _, ht, exec_of_flt i (e.flt.trans hf), e.refuse⟩
  | notInit hf hr hi =>
    exact ⟨_, _, ht, exec_of_not_rdy (e.flt.trans hf) (e.rdy.trans hr) hi, e.raiseFault _⟩
  | ran hf hr => exact ⟨_, _, ht, exec_of_admitted (e.flt.trans hf) (hr.imp_right e.rdy.trans), e.ran i⟩

theorem State.SameEngine.command (c : Word) :
    ∃ t t', command c s = .next t ∧ command c s' = .next t' ∧ s.SameReply s' t t' := by
  cases hd : decode c with
  | illegal why => exact ⟨_, _, by rw [Machine.command, hd], by rw [Machine.command, hd], e.illegalWord⟩
  | command i => simpa only [Machine.command, hd] using e.exec i

theorem State.SameEngine.issue (c : Word) : s.SameReply s' (s.issue c) (s'.issue c) := by
  obtain ⟨t, t', ht, ht', engine, r, hr, hr'⟩ := (e.present c).command c
  rw [State.issue_eq ht, State.issue_eq ht']
  rw [State.present_responses] at hr hr'
  exact ⟨engine, r, hr, hr'⟩

end SameEngine

/-! ### The replies to a list of words, one by one -/

theorem State.issue_responses (c : Word) (s : State) : ∃ r, (s.issue c).responses = s.responses ++ [r] := by
  obtain ⟨r, hr, _⟩ := ((State.SameEngine.refl s).issue c).reply
  exact ⟨r, hr⟩

/-- Issuing words only appends responses, so `replies` drops exactly those delivered before. -/
theorem State.issueWords_responses (cs : List Word) (s : State) :
    (s.issueWords cs).responses = s.responses ++ s.replies cs := by
  have appended : ∃ rs, (s.issueWords cs).responses = s.responses ++ rs := by
    induction cs generalizing s with
    | nil => exact ⟨[], (List.append_nil _).symm⟩
    | cons c cs ih =>
      obtain ⟨r, hr⟩ := s.issue_responses c
      obtain ⟨rs, hrs⟩ := ih (s.issue c)
      exact ⟨r :: rs, by rw [State.issueWords, hrs, hr, List.append_assoc, List.singleton_append]⟩
  obtain ⟨rs, hrs⟩ := appended
  rw [State.replies, hrs, List.drop_left]

theorem State.replies_cons {c : Word} {s : State} {r : Word} (h : (s.issue c).responses = s.responses ++ [r])
    (cs : List Word) : s.replies (c :: cs) = r :: (s.issue c).replies cs := by
  have all : s.responses ++ s.replies (c :: cs) = s.responses ++ (r :: (s.issue c).replies cs) := by
    rw [← State.issueWords_responses, State.issueWords, State.issueWords_responses, h, List.append_assoc,
      List.singleton_append]
  exact List.append_cancel_left all

/-- The replies to any words depend on the engine alone. -/
theorem State.SameEngine.replies {s s' : State} (e : s.SameEngine s') (cs : List Word) :
    s.replies cs = s'.replies cs := by
  induction cs generalizing s s' with
  | nil => simp [State.replies, State.issueWords]
  | cons c cs ih =>
    obtain ⟨engine, r, hr, hr'⟩ := e.issue c
    rw [State.replies_cons hr, State.replies_cons hr', ih engine]

/-! ### The replies to DRIPs (43_output.md R96) -/

/-- The bytes that `n` DRIPs answer from a Spritz state. -/
def Spritz.keystream : Nat → Spritz → List Byte
  | 0, _ => []
  | n + 1, p => p.squeeze.z :: Spritz.keystream n p.squeeze

theorem State.replies_replicate_drip (n : Nat) {s : State} (hf : s.flt = false) (hr : s.rdy = true) :
    s.replies (List.replicate n 0x0600) = (Spritz.keystream n s.spritz).map (responseWord .ok) := by
  induction n generalizing s with
  | zero => simp [State.replies, State.issueWords, Spritz.keystream]
  | succ n ih =>
    have issued : s.issue 0x0600 = (s.present 0x0600).ran .drip := State.issue_ran (by decide) hf (.inr hr)
    have reply : (s.issue 0x0600).responses = s.responses ++ [responseWord .ok s.spritz.squeeze.z] := by
      rw [issued, State.ran_responses, State.present_responses, State.present_spritz, bodyOf]
    have spritz : (s.issue 0x0600).spritz = s.spritz.squeeze := by
      rw [issued, State.ran_spritz, State.present_spritz, bodyOf]
    rw [List.replicate_succ, State.replies_cons reply, ih (by rw [issued]; simp [hf]) (by rw [issued]; simp), spritz,
      Spritz.keystream, List.map_cons]

/-- The first four keystream bytes after INIT (R66). -/
theorem Spritz.keystream_initial : Spritz.keystream 4 Spritz.initial = [0x04, 0x14, 0x45, 0xCE] := by decide +kernel

/-- Settles O20: after INIT the two engines hold the same, so every later reply is the same. -/
theorem initErasesHistory : Obligations.InitErasesHistory := by
  intro s s' hf hf'
  have engine : (s.ran .init).SameEngine (s'.ran .init) := by
    refine ⟨?_, ?_, ?_⟩
    · rw [State.ran_init_spritz, State.ran_init_spritz]
    · rw [State.ran_rdy, State.ran_rdy]
    · rw [State.ran_flt, State.ran_flt, hf, hf']
  have drips : (s.ran .init).replies (List.replicate 4 0x0600) = [0x0004, 0x0014, 0x0045, 0x00CE] := by
    rw [State.replies_replicate_drip 4 ((s.ran_flt .init).trans hf) (s.ran_rdy .init), s.ran_init_spritz,
      Spritz.keystream_initial]
    decide
  exact ⟨s.ran .init, s'.ran .init, exec_of_admitted hf (.inl rfl), exec_of_admitted hf' (.inl rfl),
    engine.spritz.symm, engine.rdy.symm, engine.flt.symm, engine.replies, drips⟩

end Sys2Proof.Machine

/-! PROOF. The micro-operations of the sequencer (41_sequencer_microops.md R70 to R80): what each writes and what it
leaves, the pairs CRUSH orders, the fields SHUFFLE does not read, and `i`, which SHUFFLE leaves as it found it. -/

namespace Sys2Proof.Machine

/-! ### SWAP, UPDATE and OUTPUT (R70, R71, R75) -/

theorem Spritz.read_swap_left (x y : Byte) (p : Spritz) : (p.swap x y).S.read x = p.S.read y := by
  rw [Spritz.read_swap_eq_comp, Function.comp_apply, Equiv.swap_apply_left]

theorem Spritz.read_swap_right (x y : Byte) (p : Spritz) : (p.swap x y).S.read y = p.S.read x := by
  rw [Spritz.read_swap_eq_comp, Function.comp_apply, Equiv.swap_apply_right]

theorem Spritz.swap_sameOutside (x y : Byte) (p : Spritz) : p.SameOutside (p.swap x y) (fun e => e = x ∨ e = y) := by
  intro e he
  rw [not_or] at he
  rw [Spritz.read_swap_eq_comp, Function.comp_apply, Equiv.swap_apply_of_ne_of_ne he.1 he.2]

theorem Spritz.read_swap_self (x : Byte) (p : Spritz) : (p.swap x x).S.read = p.S.read := by
  rw [Spritz.read_swap_eq_comp, Equiv.swap_self]
  rfl

theorem Spritz.swap_sameRegisters (x y : Byte) (p : Spritz) : p.SameRegisters (p.swap x y) where
  i := p.swap_i x y
  j := p.swap_j x y
  k := p.swap_k x y
  z := p.swap_z x y
  a := p.swap_a x y
  w := p.swap_w x y

/-- Settles O11: SWAP is the transposition of its two addresses, and that of an address with itself is the identity. -/
theorem swapExchangesTwoEntries : Obligations.SwapExchangesTwoEntries := by
  intro p x y
  exact ⟨p.read_swap_left x y, p.read_swap_right x y, p.swap_sameOutside x y, p.swap_sameRegisters x y,
    fun e _ => congrFun (p.read_swap_self x) e⟩

/-- Settles O12: the first three lines of UPDATE write registers only, and the fourth is SWAP at the new `i` and `j`. -/
theorem updateRunsItsFourLines : Obligations.UpdateRunsItsFourLines := by
  intro p
  obtain ⟨hi, hj, hk⟩ := p.update_registers
  rw [hi, hj] at hk
  refine ⟨hi, hj, hk, ?_, ?_, ?_, p.update_z, p.update_a, p.update_w⟩
  · exact p.stepI.stepJ.stepK.read_swap_left _ _
  · exact p.stepI.stepJ.stepK.read_swap_right _ _
  · exact p.stepI.stepJ.stepK.swap_sameOutside _ _

/-- Settles O16: the three sums of OUTPUT are read with the old `z`. -/
theorem outputWritesOnlyZ : Obligations.OutputWritesOnlyZ := by
  intro p
  rw [Spritz.output, Memory.readSum, Memory.readSum, Memory.readSum]

/-! ### WHIP (R72, R78) -/

theorem Spritz.updates_eq_iterate (r : Nat) (p : Spritz) : Spritz.updates r p = Spritz.update^[r] p := by
  induction r generalizing p with
  | zero => rfl
  | succ r ih => rw [Spritz.updates, ih, Function.iterate_succ_apply]

/-- Settles O13: UPDATE does not write `w`, so all `r` of them run with the old one. -/
theorem whipUpdatesThenAddsTwo : Obligations.WhipUpdatesThenAddsTwo := by
  intro r p
  have stride (n : Nat) : (Spritz.update^[n] p).w = p.w := by rw [← Spritz.updates_eq_iterate, Spritz.updates_w]
  refine ⟨?_, stride, (p.whip_strideOdd_iff r).2⟩
  rw [Spritz.whip, Spritz.addStride, Spritz.updates_eq_iterate, stride]

theorem Spritz.update_i (p : Spritz) : p.update.i = p.i + p.w := p.update_registers.1

/-- Every UPDATE adds the same `w` to `i`. -/
theorem Spritz.updates_i (r : Nat) (p : Spritz) : (Spritz.updates r p).i = p.i + BitVec.ofNat 8 r * p.w := by
  induction r generalizing p with
  | zero => simp [Spritz.updates]
  | succ r ih =>
    rw [Spritz.updates, ih, Spritz.update_i, Spritz.update_w, BitVec.ofNat_add, BitVec.add_mul, BitVec.one_mul,
      BitVec.add_comm (_ * _), BitVec.add_assoc]

/-- 512 is a multiple of 256, so the 512 additions of `w` cancel out (R78). -/
@[simp] theorem Spritz.whip_whipCount_i (p : Spritz) : (p.whip whipCount).i = p.i := by
  have wraps : BitVec.ofNat 8 whipCount = 0#8 := by decide
  rw [Spritz.whip, Spritz.addStride_i, Spritz.updates_i, wraps, BitVec.zero_mul, BitVec.add_zero]

/-! ### CRUSH (R73) -/

theorem Spritz.outOfOrder_iff (v : Byte) (p : Spritz) :
    p.outOfOrder v = true ↔ p.S.read v > p.S.read (mirror v) := by
  rw [Spritz.outOfOrder, BitVec.ult_iff_lt]

/-- `q` holds the two bytes that `p` holds at `v` and its mirror, the lower one at `v`. -/
structure Spritz.PairOrdered (p q : Spritz) (v : Byte) : Prop where
  low : q.S.read v = if p.S.read v > p.S.read (mirror v) then p.S.read (mirror v) else p.S.read v
  high : q.S.read (mirror v) = if p.S.read v > p.S.read (mirror v) then p.S.read v else p.S.read (mirror v)

theorem Spritz.crushPair_pairOrdered (v : Byte) (p : Spritz) : p.PairOrdered (p.crushPair v) v := by
  by_cases h : p.S.read v > p.S.read (mirror v)
  · have swaps : p.crushPair v = p.swap v (mirror v) := by rw [Spritz.crushPair, if_pos ((p.outOfOrder_iff v).2 h)]
    rw [swaps]
    exact ⟨by rw [if_pos h, Spritz.read_swap_left], by rw [if_pos h, Spritz.read_swap_right]⟩
  · have keeps : p.crushPair v = p := by rw [Spritz.crushPair, if_neg (mt (p.outOfOrder_iff v).1 h)]
    rw [keeps]
    exact ⟨by rw [if_neg h], by rw [if_neg h]⟩

theorem Spritz.crushPair_sameOutside (v : Byte) (p : Spritz) :
    p.SameOutside (p.crushPair v) (fun e => e = v ∨ e = mirror v) := by
  rw [Spritz.crushPair]
  split
  · exact p.swap_sameOutside v (mirror v)
  · exact fun _ _ => rfl

theorem mirror_toNat (v : Byte) : (mirror v).toNat = 255 - v.toNat := by
  rw [mirror]
  bv_omega

theorem mirror_ne (v : Byte) : mirror v ≠ v := by
  rw [mirror]
  bv_omega

/-- Two pairs below 128 have no address in common. -/
theorem mirror_pairs_disjoint {u v : Byte} (hvu : v.toNat < u.toNat) (hu : u.toNat < 128) :
    ¬ (u = v ∨ u = mirror v) ∧ ¬ (mirror u = v ∨ mirror u = mirror v) := by
  simp only [← BitVec.toNat_inj, mirror_toNat]
  omega

/-- The iterations from `v` on touch only the addresses from `v` to its mirror. -/
theorem Spritz.crushFrom_sameOutside (n : Nat) (v : Byte) (p : Spritz) (bound : v.toNat + n ≤ 128) :
    p.SameOutside (Spritz.crushFrom n v p) (fun e => v.toNat ≤ e.toNat ∧ e.toNat ≤ 255 - v.toNat) := by
  induction n generalizing v p with
  | zero => exact fun _ _ => rfl
  | succ n ih =>
    intro e he
    have next : (v + 1).toNat = v.toNat + 1 := by bv_omega
    have mirrored := mirror_toNat v
    have hv : ¬ (e = v ∨ e = mirror v) := by rintro (rfl | rfl) <;> omega
    rw [Spritz.crushFrom, ih (v + 1) (p.crushPair v) (by omega) e (by omega), p.crushPair_sameOutside v e hv]

/-- Each pair is ordered in its own iteration; the earlier and the later ones leave it alone. -/
theorem Spritz.crushFrom_pairOrdered (n : Nat) (v u : Byte) (p : Spritz) (bound : v.toNat + n ≤ 128)
    (hvu : v.toNat ≤ u.toNat) (hun : u.toNat < v.toNat + n) : p.PairOrdered (Spritz.crushFrom n v p) u := by
  induction n generalizing v p with
  | zero => omega
  | succ n ih =>
    have next : (v + 1).toNat = v.toNat + 1 := by bv_omega
    have mirrored := mirror_toNat u
    rw [Spritz.crushFrom]
    by_cases huv : u = v
    · subst huv
      have later := Spritz.crushFrom_sameOutside n (u + 1) (p.crushPair u) (by omega)
      obtain ⟨low, high⟩ := p.crushPair_pairOrdered u
      exact ⟨(later u (by omega)).trans low, (later (mirror u) (by omega)).trans high⟩
    · have hlt : v.toNat < u.toNat := lt_of_le_of_ne hvu fun h => huv (BitVec.toNat_inj.1 h.symm)
      obtain ⟨lowApart, highApart⟩ := mirror_pairs_disjoint hlt (by omega)
      obtain ⟨low, high⟩ := ih (v + 1) (p.crushPair v) (by omega) (by omega) (by omega)
      rw [p.crushPair_sameOutside v u lowApart, p.crushPair_sameOutside v _ highApart] at low high
      exact ⟨low, high⟩

theorem Spritz.crush_pairOrdered {v : Byte} (hv : v < 128) (p : Spritz) : p.PairOrdered p.crush v :=
  Spritz.crushFrom_pairOrdered 128 0 v p (by decide) (Nat.zero_le _) (by bv_omega)

theorem Spritz.crush_sameRegisters (p : Spritz) : p.SameRegisters p.crush where
  i := p.crush_i
  j := p.crush_j
  k := p.crush_k
  z := p.crush_z
  a := p.crush_a
  w := p.crush_w

/-- An ordered pair of two different bytes is strictly ascending. -/
theorem Spritz.PairOrdered.lt {p q : Spritz} {v : Byte} (h : p.PairOrdered q v)
    (hne : p.S.read v ≠ p.S.read (mirror v)) : q.S.read v < q.S.read (mirror v) := by
  rw [h.low, h.high]
  split
  · assumption
  · bv_omega

/-- Settles O14: CRUSH orders every pair below 128, and in a permutation no pair holds the same byte twice. -/
theorem crushOrdersEveryMirrorPair : Obligations.CrushOrdersEveryMirrorPair := by
  refine fun p => ⟨fun v hv => ?_, p.crush_sameRegisters, fun hperm v hv => ?_⟩
  · obtain ⟨low, high⟩ := p.crush_pairOrdered hv
    exact ⟨low, high⟩
  · have inj := ((Memory.isPerm_iff_bijective p.S).1 hperm).injective
    exact (p.crush_pairOrdered hv).lt (inj.ne (mirror_ne v).symm)

/-! ### SHUFFLE (R74, R78): its micro-operations read neither `a` nor `z` -/

/-- The Spritz state with other bytes in `a` and `z`. -/
def Spritz.withAZ (a z : Byte) (p : Spritz) : Spritz := { p with a := a, z := z }

theorem Spritz.update_withAZ (a z : Byte) (p : Spritz) : (p.withAZ a z).update = p.update.withAZ a z := rfl

theorem Spritz.whip_withAZ (r : Nat) (a z : Byte) (p : Spritz) : (p.withAZ a z).whip r = (p.whip r).withAZ a z := by
  have commute : Function.Commute Spritz.update (Spritz.withAZ a z) := Spritz.update_withAZ a z
  rw [Spritz.whip, Spritz.updates_eq_iterate, (commute.iterate_left r).eq, ← Spritz.updates_eq_iterate]
  rfl

theorem Spritz.crushPair_withAZ (v a z : Byte) (p : Spritz) :
    (p.withAZ a z).crushPair v = (p.crushPair v).withAZ a z := by
  have sameTest : (p.withAZ a z).outOfOrder v = p.outOfOrder v := rfl
  rw [Spritz.crushPair, Spritz.crushPair, sameTest]
  split <;> rfl

theorem Spritz.crushFrom_withAZ (n : Nat) (v a z : Byte) (p : Spritz) :
    Spritz.crushFrom n v (p.withAZ a z) = (Spritz.crushFrom n v p).withAZ a z := by
  induction n generalizing v p with
  | zero => rfl
  | succ n ih => rw [Spritz.crushFrom, Spritz.crushPair_withAZ, ih, Spritz.crushFrom]

theorem Spritz.crush_withAZ (a z : Byte) (p : Spritz) : (p.withAZ a z).crush = p.crush.withAZ a z :=
  Spritz.crushFrom_withAZ 128 0 a z p

theorem Spritz.clearWindow_withAZ (a z : Byte) (p : Spritz) :
    (p.withAZ a z).clearWindow = { p.clearWindow with z := z } := rfl

/-- SHUFFLE overwrites `a` and carries `z` along, reading neither. -/
theorem Spritz.shuffle_withAZ (a z : Byte) (p : Spritz) : (p.withAZ a z).shuffle = { p.shuffle with z := z } := by
  rw [Spritz.shuffle, Spritz.whip_withAZ, Spritz.crush_withAZ, Spritz.whip_withAZ, Spritz.crush_withAZ,
    Spritz.whip_withAZ, Spritz.clearWindow_withAZ, Spritz.shuffle]

theorem Spritz.withZ_of_eq {z : Byte} {p : Spritz} (h : p.z = z) : { p with z := z } = p := by
  rw [← h]

theorem Spritz.shuffle_of_other_a (a : Byte) (p : Spritz) : Spritz.shuffle { p with a := a } = p.shuffle :=
  (Spritz.shuffle_withAZ a p.z p).trans (Spritz.withZ_of_eq p.shuffle_z)

@[simp] theorem Spritz.shuffle_i (p : Spritz) : p.shuffle.i = p.i := by simp [Spritz.shuffle]

/-- Each of the three WHIPs adds 2. -/
@[simp] theorem Spritz.shuffle_w (p : Spritz) : p.shuffle.w = p.w + 6 := by
  simp [Spritz.shuffle, BitVec.add_assoc]

/-- Settles O15: SHUFFLE is its six lines, none of which reads `a` or `z`. -/
theorem shuffleWhipsAndCrushes : Obligations.ShuffleWhipsAndCrushes := by
  refine fun p => ⟨?_, p.shuffle_w, p.shuffle_i, p.shuffle_z, fun b => ?_, fun b => ?_⟩
  · rw [Spritz.shuffle, Spritz.clearWindow, whipCount]
  · exact p.shuffle_of_other_a b
  · exact Spritz.shuffle_withAZ p.a b p

/-! ### `i` stays 0 until the first DRIP or XORK (R78) -/

@[simp] theorem Spritz.makeRoom_i (p : Spritz) : p.makeRoom.i = p.i := by
  rcases p.makeRoom_cases with ⟨_, h⟩ | ⟨_, h⟩ <;> simp [h]

@[simp] theorem Spritz.flush_i (p : Spritz) : p.flush.i = p.i := by
  rcases p.flush_cases with ⟨_, h, _⟩ | ⟨_, h⟩ <;> simp [h]

@[simp] theorem Spritz.nibble_i (x : Nibble) (p : Spritz) : (p.nibble x).i = p.i := by simp [Spritz.nibble]

@[simp] theorem Spritz.stopMark_i (p : Spritz) : p.stopMark.i = p.i := by simp [Spritz.stopMark]

theorem Spritz.initial_i : Spritz.initial.i = 0 := rfl

/-- Of the commands, INIT clears `i`, and only DRIP and XORK run an UPDATE outside a SHUFFLE. -/
theorem bodyOf_i_eq_zero {i : Instr} {p : Spritz} (hdrip : i ≠ .drip) (hxork : ∀ b, i ≠ .xork b) (h : p.i = 0) :
    (bodyOf i p).1.i = 0 := by
  cases i with
  | init => exact Spritz.initial_i
  | absn x => exact (p.nibble_i x).trans h
  | absb b => exact ((p.nibble _).nibble_i _).trans ((p.nibble_i _).trans h)
  | stop => exact p.stopMark_i.trans h
  | flush => exact p.flush_i.trans h
  | drip => exact absurd rfl hdrip
  | xork b => exact absurd rfl (hxork b)

/-- Settles O17: a command that is not executed leaves the Spritz state, and INIT is executed where `flt = 0`. -/
theorem whipLeavesIAsItFoundIt : Obligations.WhipLeavesIAsItFoundIt := by
  refine ⟨fun p => ⟨p.whip_whipCount_i, p.shuffle_i⟩, fun s t hf ht => ?_, fun s t i hdrip hxork hi ht => ?_⟩
  · rw [exec_of_admitted hf (.inl rfl)] at ht
    cases ht
    rw [State.ran_init_spritz, Spritz.initial_i]
  · cases exec_cases ht with
    | refused _ => rw [State.refuse_spritz, hi]
    | notInit _ _ _ => rw [State.raiseFault_spritz, hi]
    | ran _ _ => rw [State.ran_spritz, bodyOf_i_eq_zero hdrip hxork hi]

/-! ### The invariants, micro-operation by micro-operation (R80) -/

/-- Settles O18: each micro-operation on its own keeps a permutation and an odd `w`, whatever the other registers. -/
theorem microOperationsPreserveInvariants : Obligations.MicroOperationsPreserveInvariants := by
  refine fun p => ⟨fun h => ?_, fun h => ?_, ?_, rfl⟩
  · exact ⟨Spritz.swap_isPerm h, Spritz.update_isPerm h, Spritz.crush_isPerm h, fun r => Spritz.whip_isPerm r h,
      Spritz.shuffle_isPerm h⟩
  · exact ⟨fun r => (p.whip_strideOdd_iff r).2 h, p.shuffle_strideOdd_iff.2 h⟩
  · exact ⟨fun x y => p.swap_a x y, p.update_a, p.crush_a, fun r => p.whip_a r, p.output_a, p.shuffle_a⟩

end Sys2Proof.Machine

/-! PROOF. The absorb commands (42_absorb.md R85 to R89): what one nibble or stop mark leaves, what a list of them
leaves and how often it runs SHUFFLE, and the commands as the marks they absorb. -/

namespace Sys2Proof

/-! ### The words of the commands (30_encoding.md R45) -/

theorem packWord_eq_ofNat (op imm : Byte) : packWord op imm = BitVec.ofNat 16 (op.toNat * 2 ^ 8 + imm.toNat) := by
  have hop := op.isLt
  have himm := imm.isLt
  apply BitVec.eq_of_toNat_eq
  rw [packWord, BitVec.toNat_append, ← Nat.shiftLeft_add_eq_or_of_lt himm, Nat.shiftLeft_eq, BitVec.toNat_ofNat]
  omega

/-- The high nibble of an ABSN word's operand byte is 0 (R48). -/
theorem encode_absn (x : Nibble) : encode (.absn x) = BitVec.ofNat 16 (0x0200 + x.toNat) := by
  have operand : ((0 : Nibble) ++ x).toNat = x.toNat := by
    rw [BitVec.toNat_append]
    simp
  rw [encode, packWord_eq_ofNat, operand]
  rfl

theorem encode_absb (b : Byte) : encode (.absb b) = BitVec.ofNat 16 (0x0300 + b.toNat) := packWord_eq_ofNat 0x03 b

end Sys2Proof

namespace Sys2Proof.Machine

/-! ### The window test (R77) -/

theorem Spritz.makeRoom_eq (p : Spritz) : p.makeRoom = if p.a = 128 then p.shuffle else p := by
  rcases p.makeRoom_cases with ⟨full, h⟩ | ⟨room, h⟩
  · rw [h, if_pos full]
  · rw [h, if_neg room]

theorem Spritz.makeRoom_of_ne {p : Spritz} (room : p.a ≠ 128) : p.makeRoom = p := by
  rw [p.makeRoom_eq, if_neg room]

theorem Spritz.makeRoom_a (p : Spritz) : p.makeRoom.a = if p.a = 128 then 0 else p.a := by
  rw [p.makeRoom_eq]
  split
  · exact p.shuffle_a
  · rfl

/-- Only SHUFFLE writes `w` here, and it adds 6 (R74). -/
theorem Spritz.makeRoom_w (p : Spritz) : p.makeRoom.w = p.w + 6 * BitVec.ofNat 8 (if p.a = 128 then 1 else 0) := by
  rw [p.makeRoom_eq]
  split
  · exact p.shuffle_w
  · exact (BitVec.add_zero p.w).symm

/-! ### One mark: what NIBBLE and STOP leave of the state that has room (R85, R87) -/

theorem nibbleTarget_range (x : Nibble) : 128 ≤ nibbleTarget x ∧ nibbleTarget x ≤ 143 := by
  revert x
  decide

theorem AbsorbMark.apply_a (m : AbsorbMark) (p : Spritz) : (m.apply p).a = p.makeRoom.a + 1 := by
  cases m with
  | nibble x => simp [Spritz.nibble]
  | stop => simp [Spritz.stopMark]

theorem AbsorbMark.apply_w (m : AbsorbMark) (p : Spritz) : (m.apply p).w = p.makeRoom.w := by
  cases m with
  | nibble x => simp [Spritz.nibble]
  | stop => simp [Spritz.stopMark]

theorem AbsorbMark.apply_z (m : AbsorbMark) (p : Spritz) : (m.apply p).z = p.z := by
  cases m with
  | nibble x => simp [Spritz.nibble]
  | stop => simp [Spritz.stopMark]

/-- From the reachable bound on, a mark leaves `a` in 1..128 (R26, R87). -/
theorem AbsorbMark.apply_a_range {p : Spritz} (h : p.windowBounded) (m : AbsorbMark) :
    1 ≤ (m.apply p).a ∧ (m.apply p).windowBounded := by
  have room := Spritz.makeRoom_a_lt h
  rw [Spritz.windowBounded, m.apply_a]
  bv_omega

/-- Each SHUFFLE takes 128 from `a`, and the mark adds 1. -/
theorem AbsorbMark.apply_count {p : Spritz} (h : p.windowBounded) (m : AbsorbMark) :
    128 * (if p.a = 128 then 1 else 0) + (m.apply p).a.toNat = p.a.toNat + 1 := by
  have bound : p.a ≤ 128 := h
  rw [m.apply_a, p.makeRoom_a]
  split <;> bv_omega

/-! ### A list of marks: the counting law (R88) -/

theorem absorbMarks_a_range {ms : List AbsorbMark} (hms : ms ≠ []) {p : Spritz} (h : p.windowBounded) :
    1 ≤ (absorbMarks ms p).a ∧ (absorbMarks ms p).windowBounded := by
  induction ms generalizing p with
  | nil => exact absurd rfl hms
  | cons m ms ih =>
    have one := AbsorbMark.apply_a_range h m
    rw [absorbMarks_cons]
    by_cases last : ms = []
    · rwa [last, absorbMarks_nil]
    · exact ih last one.2

/-- No mark is lost: those that a SHUFFLE cleared and those that `a` counts are all there are. -/
theorem absorbMarks_count (ms : List AbsorbMark) {p : Spritz} (h : p.windowBounded) :
    128 * shufflesRun ms p + (absorbMarks ms p).a.toNat = p.a.toNat + ms.length := by
  induction ms generalizing p with
  | nil => simp
  | cons m ms ih =>
    have one := AbsorbMark.apply_count h m
    have rest := ih (AbsorbMark.apply_a_range h m).2
    rw [shufflesRun_cons, absorbMarks_cons, List.length_cons]
    omega

/-- `w` counts the SHUFFLEs by sixes. -/
theorem absorbMarks_w (ms : List AbsorbMark) (p : Spritz) :
    (absorbMarks ms p).w = p.w + 6 * BitVec.ofNat 8 (shufflesRun ms p) := by
  induction ms generalizing p with
  | nil => simp
  | cons m ms ih =>
    rw [absorbMarks_cons, ih, m.apply_w, p.makeRoom_w, shufflesRun_cons, BitVec.ofNat_add, BitVec.mul_add,
      BitVec.add_assoc]

theorem absorbMarks_z (ms : List AbsorbMark) (p : Spritz) : (absorbMarks ms p).z = p.z := by
  induction ms generalizing p with
  | nil => rfl
  | cons m ms ih => rw [absorbMarks_cons, ih, m.apply_z]

/-- Settles O46: `a` ends in 1..128 and every mark is counted, so the two counts are quotient and remainder. -/
theorem absorbCountingLaw : Obligations.AbsorbCountingLaw := by
  intro ms p ha hms
  have bound : p.windowBounded := by rw [Spritz.windowBounded, ha]; decide
  have count := absorbMarks_count ms bound
  have lower : 1 ≤ (absorbMarks ms p).a.toNat := (absorbMarks_a_range hms bound).1
  have upper : (absorbMarks ms p).a.toNat ≤ 128 := (absorbMarks_a_range hms bound).2
  have zero : p.a.toNat = 0 := congrArg BitVec.toNat ha
  have shuffles : shufflesRun ms p = (ms.length - 1) / 128 := by omega
  refine ⟨shuffles, by omega, ?_⟩
  rw [absorbMarks_w, shuffles]

/-! ### Marks between two SHUFFLEs touch only their entries (R89) -/

/-- `q` keeps i, j, k, w of `p`, counts at least as many marks, and differs in `S` only below its `a` and in
128..143. -/
structure Spritz.WithinWindow (p q : Spritz) : Prop where
  i : q.i = p.i
  j : q.j = p.j
  k : q.k = p.k
  w : q.w = p.w
  a : p.a ≤ q.a
  entries : p.SameOutside q (fun e => e < q.a ∨ (128 ≤ e ∧ e ≤ 143))

theorem Spritz.WithinWindow.refl (p : Spritz) : p.WithinWindow p where
  i := rfl
  j := rfl
  k := rfl
  w := rfl
  a := BitVec.le_refl _
  entries := fun _ _ => rfl

theorem Spritz.WithinWindow.trans {p q r : Spritz} (hpq : p.WithinWindow q) (hqr : q.WithinWindow r) :
    p.WithinWindow r where
  i := hqr.i.trans hpq.i
  j := hqr.j.trans hpq.j
  k := hqr.k.trans hpq.k
  w := hqr.w.trans hpq.w
  a := BitVec.le_trans hpq.a hqr.a
  entries := by
    intro e he
    have earlier : ¬ (e < q.a ∨ (128 ≤ e ∧ e ≤ 143)) := fun hit =>
      he (hit.imp_left fun low => Nat.lt_of_lt_of_le low hqr.a)
    exact (hqr.entries e he).trans (hpq.entries e earlier)

theorem Spritz.countOne_withinWindow {p : Spritz} (room : p.a < 128) : p.WithinWindow p.countOne where
  i := p.countOne_i
  j := p.countOne_j
  k := p.countOne_k
  w := p.countOne_w
  a := by rw [p.countOne_a]; bv_omega
  entries := fun e _ => by rw [p.countOne_S]

/-- The nibble's exchange is between the entry that `a` then passes and one of the sixteen. -/
theorem Spritz.swap_countOne_withinWindow {p : Spritz} (room : p.a < 128) (x : Nibble) :
    p.WithinWindow (p.swap p.a (nibbleTarget x)).countOne where
  i := by simp
  j := by simp
  k := by simp
  w := by simp
  a := by rw [Spritz.countOne_a, Spritz.swap_a]; bv_omega
  entries := by
    intro e he
    rw [Spritz.countOne_a, Spritz.swap_a] at he
    rw [Spritz.countOne_S]
    refine p.swap_sameOutside _ _ e ?_
    rintro (rfl | rfl)
    · exact he (.inl (by bv_omega))
    · exact he (.inr (nibbleTarget_range x))

theorem AbsorbMark.apply_withinWindow {p : Spritz} (h : p.windowBounded) (m : AbsorbMark) :
    p.makeRoom.WithinWindow (m.apply p) := by
  have room := Spritz.makeRoom_a_lt h
  cases m with
  | nibble x => exact Spritz.swap_countOne_withinWindow room x
  | stop => exact Spritz.countOne_withinWindow room

theorem absorbMarks_withinWindow {ms : List AbsorbMark} {p : Spritz} (h : p.windowBounded)
    (unshuffled : shufflesRun ms p = 0) : p.WithinWindow (absorbMarks ms p) := by
  induction ms generalizing p with
  | nil => exact .refl p
  | cons m ms ih =>
    rw [shufflesRun_cons, Nat.add_eq_zero_iff] at unshuffled
    obtain ⟨here, later⟩ := unshuffled
    have room : p.a ≠ 128 := by simpa using here
    have one := AbsorbMark.apply_withinWindow h m
    rw [Spritz.makeRoom_of_ne room] at one
    exact one.trans (ih (AbsorbMark.apply_a_range h m).2 later)

/-! ### The commands are their marks -/

theorem bodyOf_of_absorbs {i : Instr} (hi : (∃ x, i = .absn x) ∨ (∃ b, i = .absb b) ∨ i = .stop) (p : Spritz) :
    (bodyOf i p).1 = absorbMarks (commandMarks i) p := by
  rcases hi with ⟨x, rfl⟩ | ⟨b, rfl⟩ | rfl
  · rfl
  · rfl
  · rfl

theorem shufflesRun_singleton_eq_zero {p : Spritz} (room : p.a ≠ 128) (m : AbsorbMark) : shufflesRun [m] p = 0 := by
  rw [shufflesRun_cons, if_neg room, shufflesRun_nil]

/-- Only the second nibble of an ABSB can find the window full where the command did not (R79). -/
theorem shufflesRun_commandMarks_eq_zero {i : Instr} {p : Spritz} (room : p.a ≠ 128)
    (last : p.a = 127 → ∀ b, i ≠ .absb b) : shufflesRun (commandMarks i) p = 0 := by
  cases i with
  | init => rfl
  | absn x => exact shufflesRun_singleton_eq_zero room _
  | absb b =>
    have room' : p.a ≠ 127 := fun h => last h b rfl
    have second : ((AbsorbMark.nibble (lowNibble b)).apply p).a ≠ 128 := by
      rw [AbsorbMark.apply_a, Spritz.makeRoom_of_ne room]
      bv_omega
    rw [commandMarks, shufflesRun_cons, if_neg room, shufflesRun_singleton_eq_zero second]
  | stop => exact shufflesRun_singleton_eq_zero room _
  | flush => rfl
  | drip => rfl
  | xork b => rfl

/-- What a command leaves: its marks absorbed where it is executed, else the Spritz state as it was. -/
theorem exec_absorbs_cases {i : Instr} (hi : (∃ x, i = .absn x) ∨ (∃ b, i = .absb b) ∨ i = .stop) {s t : State}
    (h : exec i s = .next t) : t.spritz = s.spritz ∨ t.spritz = absorbMarks (commandMarks i) s.spritz := by
  cases exec_cases h with
  | refused _ => exact .inl s.refuse_spritz
  | notInit _ _ _ => exact .inl (s.raiseFault_spritz _)
  | ran _ _ => exact .inr ((s.ran_spritz i).trans (bodyOf_of_absorbs hi s.spritz))

/-- Settles O47: marks never write `z`, and without a SHUFFLE they stay within the window. -/
theorem absorbTouchesOnlyItsEntries : Obligations.AbsorbTouchesOnlyItsEntries := by
  intro s t i hi bound ht
  have left := exec_absorbs_cases hi ht
  constructor
  · rcases left with same | marks
    · rw [same]
    · rw [marks, absorbMarks_z]
  · intro room last
    have within : s.spritz.WithinWindow t.spritz := by
      rcases left with same | marks
      · rw [same]
        exact .refl _
      · rw [marks]
        exact absorbMarks_withinWindow bound (shufflesRun_commandMarks_eq_zero room last)
    exact ⟨within.i, within.j, within.k, within.w, within.entries⟩

/-! ### The commands one by one (R85 to R87) -/

/-- Settles O21: ABSN is NIBBLE, which exchanges the two entries and writes no register but `a`. -/
theorem absnAbsorbsOneNibble : Obligations.AbsnAbsorbsOneNibble := by
  refine ⟨encode_absn, fun s x hf hr => ?_⟩
  intro q e
  have left : (s.ran (.absn x)).spritz = (q.swap q.a e).countOne := by
    rw [State.ran_spritz, bodyOf, Spritz.nibble, Spritz.makeRoom_eq, nibbleTarget]
  have entries : (s.ran (.absn x)).spritz.S = (q.swap q.a e).S := by rw [left, Spritz.countOne_S]
  have keeps_z : q.z = s.spritz.z := (congrArg Spritz.z s.spritz.makeRoom_eq).symm.trans s.spritz.makeRoom_z
  refine ⟨s.ran (.absn x), exec_of_admitted hf (.inr hr), s.executed_ran _ hf, ?_, ?_, ?_, ?_⟩
  · rw [entries, Spritz.read_swap_left]
  · rw [entries, Spritz.read_swap_right]
  · intro n hn
    rw [entries, q.swap_sameOutside q.a e n hn]
  · rw [left]
    simp [keeps_z]

theorem lowNibble_eq_extractLsb' (b : Byte) : lowNibble b = b.extractLsb' 0 4 := by
  revert b
  decide

theorem highNibble_eq_extractLsb' (b : Byte) : highNibble b = b.extractLsb' 4 4 := by
  revert b
  decide

/-- Settles O22: ABSB is two NIBBLEs, as are the two ABSNs. -/
theorem absbIsLowThenHighNibble : Obligations.AbsbIsLowThenHighNibble := by
  refine ⟨encode_absb, fun s b hf hr => ?_⟩
  have hf' : (s.ran (.absn (b.extractLsb' 0 4))).flt = false := (s.ran_flt _).trans hf
  refine ⟨_, _, _, exec_of_admitted hf (.inr hr), exec_of_admitted hf' (.inr (s.ran_rdy _)),
    exec_of_admitted hf (.inr hr), s.executed_ran _ hf, ?_⟩
  rw [State.ran_spritz, State.ran_spritz, State.ran_spritz, ← lowNibble_eq_extractLsb', ← highNibble_eq_extractLsb',
    bodyOf, bodyOf, bodyOf]

/-- Settles O23: STOP makes room and counts, which is one mark, so the bound on `a` is that of a mark. -/
theorem stopCountsOneMark : Obligations.StopCountsOneMark := by
  refine ⟨by decide, fun s hf hr => ?_⟩
  intro q
  have left : (s.ran .stop).spritz = q.countOne := by
    rw [State.ran_spritz, bodyOf, Spritz.stopMark, Spritz.makeRoom_eq]
  refine ⟨s.ran .stop, exec_of_admitted hf (.inr hr), s.executed_ran _ hf, left, fun bound => ?_⟩
  rw [State.ran_spritz]
  exact AbsorbMark.apply_a_range bound .stop

end Sys2Proof.Machine

/-! PROOF. The output commands (43_output.md R95 to R98): the guard as a test of `a`, after which a guarded command
finds nothing pending, and what its UPDATE and OUTPUT leave. -/

namespace Sys2Proof

theorem encode_xork (b : Byte) : encode (.xork b) = BitVec.ofNat 16 (0x0700 + b.toNat) := packWord_eq_ofNat 0x07 b

end Sys2Proof

namespace Sys2Proof.Machine

/-! ### The guard (R77, R95) -/

theorem Spritz.flush_of_pending {p : Spritz} (pending : 0 < p.a) : p.flush = p.shuffle := by
  rcases p.flush_cases with ⟨_, h, _⟩ | ⟨nothing, _⟩
  · exact h
  · exact absurd (nothing ▸ pending) (by decide)

theorem Spritz.flush_of_a_eq_zero {p : Spritz} (nothing : p.a = 0) : p.flush = p := by
  rcases p.flush_cases with ⟨pending, _, _⟩ | ⟨_, h⟩
  · exact absurd nothing pending
  · exact h

theorem Spritz.flush_eq (p : Spritz) : p.flush = if 0 < p.a then p.shuffle else p := by
  split
  next pending => exact Spritz.flush_of_pending pending
  next nothing => exact Spritz.flush_of_a_eq_zero (by bv_omega)

/-- Settles O24: FLUSH is the guard alone, and neither SHUFFLE nor its absence changes `z`. -/
theorem flushShufflesPendingInput : Obligations.FlushShufflesPendingInput := by
  refine ⟨by decide, fun s hf hr => ?_⟩
  have left : (s.ran .flush).spritz = s.spritz.flush := s.ran_spritz .flush
  refine ⟨s.ran .flush, exec_of_admitted hf (.inr hr), s.executed_ran _ hf, ?_⟩
  rw [left]
  exact ⟨s.spritz.flush_a, s.spritz.flush_z, Spritz.flush_of_pending, Spritz.flush_of_a_eq_zero⟩

/-! ### DRIP and XORK (R96, R97) -/

theorem State.ran_drip_spritz (s : State) : (s.ran .drip).spritz = s.spritz.squeeze := s.ran_spritz .drip

/-- The data byte of DRIP is the `z` it leaves. -/
theorem State.executed_ran_drip {s : State} (hf : s.flt = false) : s.Executed (s.ran .drip) (s.ran .drip).spritz.z := by
  rw [s.ran_drip_spritz]
  exact s.executed_ran .drip hf

/-- Settles O25: after the guard, UPDATE writes what R71 says and OUTPUT only `z`, from the registers UPDATE left. -/
theorem dripReturnsTheNewZ : Obligations.DripReturnsTheNewZ := by
  refine ⟨by decide, fun s hf hr => ?_⟩
  intro q i j k
  have guard : s.spritz.flush = q := s.spritz.flush_eq
  have q_a : q.a = 0 := by rw [← guard, Spritz.flush_a]
  have q_z : q.z = s.spritz.z := by rw [← guard, Spritz.flush_z]
  have left : (s.ran .drip).spritz = q.update.output := by rw [s.ran_drip_spritz, Spritz.squeeze, guard]
  refine ⟨s.ran .drip, exec_of_admitted hf (.inr hr), State.executed_ran_drip hf, ?_⟩
  obtain ⟨hi, hj, hk, entry_i, entry_j, others, hz, ha, hw⟩ := updateRunsItsFourLines q
  have new_z : q.update.output.z = q.update.S.read (j + q.update.S.read (i + q.update.S.read (s.spritz.z + k))) := by
    rw [Spritz.output_z, Memory.readSum, Memory.readSum, Memory.readSum, hi, hj, hk, hz, q_z]
  rw [left]
  exact ⟨hi, hj, hk, ha.trans q_a, hw, entry_i, entry_j, others, new_z⟩

/-- Settles O26: XORK and DRIP leave the same state, whose `z` is the keystream byte. -/
theorem xorkXorsTheKeystreamByte : Obligations.XorkXorsTheKeystreamByte := by
  refine ⟨encode_xork, fun s hf hr => ?_⟩
  refine ⟨s.ran .drip, exec_of_admitted hf (.inr hr), State.executed_ran_drip hf, fun b => ?_⟩
  rw [s.ran_drip_spritz]
  exact ⟨s.ran (.xork b), exec_of_admitted hf (.inr hr), s.executed_ran _ hf, s.ran_spritz _⟩

/-! ### A guarded command after FLUSH (R98) -/

/-- FLUSH leaves nothing pending, so a second guard does nothing. -/
theorem Spritz.flush_flush (p : Spritz) : p.flush.flush = p.flush := Spritz.flush_of_a_eq_zero p.flush_a

theorem Spritz.squeeze_flush (p : Spritz) : p.flush.squeeze = p.squeeze := by
  rw [Spritz.squeeze, Spritz.flush_flush, Spritz.squeeze]

theorem bodyOf_flush {i : Instr} (guarded : commandGuarded i = true) (p : Spritz) : bodyOf i p.flush = bodyOf i p := by
  cases i with
  | init | absn | absb | stop => cases guarded
  | flush => rw [bodyOf, bodyOf, Spritz.flush_flush]
  | drip => rw [bodyOf, bodyOf, Spritz.squeeze_flush]
  | xork b => rw [bodyOf, bodyOf, Spritz.squeeze_flush]

/-- A guarded command answers the same byte and leaves the same state with a FLUSH before it as without. -/
theorem exec_ran_flush {i : Instr} (guarded : commandGuarded i = true) {s : State} (hf : s.flt = false)
    (hr : s.rdy = true) :
    ∃ t v d, exec i s = .next t ∧ exec i (s.ran .flush) = .next v ∧ t.spritz = v.spritz ∧
      s.Answered t .ok d ∧ (s.ran .flush).Answered v .ok d := by
  have body : bodyOf i (s.ran .flush).spritz = bodyOf i s.spritz := by
    rw [State.ran_spritz, bodyOf, bodyOf_flush guarded]
  refine ⟨s.ran i, (s.ran .flush).ran i, (bodyOf i s.spritz).2, exec_of_admitted hf (.inr hr),
    exec_of_admitted ((s.ran_flt _).trans hf) (.inr (s.ran_rdy _)), ?_, s.answered_ran i, ?_⟩
  · rw [State.ran_spritz, State.ran_spritz _ (s.ran .flush), body]
  · rw [← body]
    exact (s.ran .flush).answered_ran i

/-- Settles O48: all three are guarded commands. -/
theorem guardsAreRedundant : Obligations.GuardsAreRedundant := by
  intro s u hf hr hu
  have flushed : exec .flush s = .next (s.ran .flush) := exec_of_admitted hf (.inr hr)
  cases flushed.symm.trans hu
  refine ⟨exec_ran_flush rfl hf hr, fun b => exec_ran_flush rfl hf hr, ?_⟩
  obtain ⟨t, v, _, ht, hv, same, _, _⟩ := exec_ran_flush (i := .flush) rfl hf hr
  cases flushed.symm.trans ht
  exact ⟨v, hv, same.symm⟩

end Sys2Proof.Machine

/-! PROOF. Faults (60_exceptions.md R126 to R130): an answer that only faults, which of the answers do so, and the
condition on the flags and the word under which each of the four is given, highest priority first. -/

namespace Sys2Proof.Machine

/-! ### An answer that only faults (R127, R130) -/

/-- The engine is faulted after it, and its Spritz state and `rdy` are what they were. -/
structure State.OnlyFaults (s t : State) : Prop where
  spritz : t.spritz = s.spritz
  rdy : t.rdy = s.rdy
  flt : t.flt = true

theorem State.onlyFaults_raiseFault (code : Status) (s : State) : s.OnlyFaults (s.raiseFault code) where
  spritz := s.raiseFault_spritz code
  rdy := s.raiseFault_rdy code
  flt := s.raiseFault_flt code

theorem State.onlyFaults_refuse {s : State} (hf : s.flt = true) : s.OnlyFaults s.refuse where
  spritz := s.refuse_spritz
  rdy := s.refuse_rdy
  flt := s.refuse_flt.trans hf

theorem State.illegalWord_of_flt {s : State} (hf : s.flt = true) : s.illegalWord = s.refuse := by
  rw [State.illegalWord, if_pos hf]

theorem State.onlyFaults_illegalWord (s : State) : s.OnlyFaults s.illegalWord := by
  cases hf : s.flt with
  | true => exact State.illegalWord_of_flt hf ▸ State.onlyFaults_refuse hf
  | false => exact State.illegalWord_of_not_flt hf ▸ s.onlyFaults_raiseFault _

/-- A word is answered by running a command, or the answer only faults. -/
theorem command_ran_or_onlyFaults {c : Word} {s t : State} (h : command c s = .next t) :
    (∃ i, t = s.ran i) ∨ s.OnlyFaults t := by
  rcases command_cases h with ⟨_, _, rfl⟩ | ⟨i, _, outcome⟩
  · exact .inr s.onlyFaults_illegalWord
  · cases outcome with
    | refused hf => exact .inr (State.onlyFaults_refuse hf)
    | notInit _ _ _ => exact .inr (s.onlyFaults_raiseFault _)
    | ran _ _ => exact .inl ⟨i, rfl⟩

/-! ### Which answer a word gets (R128, R129) -/

theorem command_encode (i : Instr) (s : State) : command (encode i) s = exec i s := by
  rw [command, decode_of_encode]

/-- INIT's word is no other command's (R53). -/
theorem encode_ne_init_iff (i : Instr) : encode i ≠ 0x0100 ↔ i ≠ .init :=
  encode_injective.ne_iff' rfl

theorem command_of_flt (c : Word) {s : State} (hf : s.flt = true) : command c s = .next s.refuse := by
  cases hw : wellFormedWord c with
  | false => rw [command_of_reserved hw, State.illegalWord_of_flt hf]
  | true =>
    obtain ⟨i, rfl⟩ := (wellFormedWord_iff_exists_encode c).1 hw
    rw [command_encode, exec_of_flt i hf]

/-- A command the engine does not refuse runs or finds no Spritz state (R129, the last two conditions). -/
theorem command_encode_status (i : Instr) {s : State} (hf : s.flt = false) :
    ∃ t d st, command (encode i) s = .next t ∧ s.Answered t st d ∧
      st = if s.rdy = false ∧ encode i ≠ 0x0100 then Status.errNotInit else Status.ok := by
  rw [command_encode]
  obtain ⟨t, ht, outcome⟩ := exec_outcome i s
  cases outcome with
  | refused hf' => simp [hf] at hf'
  | notInit _ hr hi => exact ⟨_, _, _, ht, s.answered_raiseFault _, (if_pos ⟨hr, (encode_ne_init_iff i).2 hi⟩).symm⟩
  | ran _ hr =>
    refine ⟨_, _, _, ht, s.answered_ran i, (if_neg ?_).symm⟩
    rintro ⟨hr', hi⟩
    simp [(encode_ne_init_iff i).1 hi, hr'] at hr

/-! ### The statements -/

/-- Settles O31: it is the state the fault leaves, with the response it appends. -/
theorem raiseFaultSetsOnlyFlt : Obligations.RaiseFaultSetsOnlyFlt := by
  intro s code
  obtain ⟨hspritz, hrdy, hflt⟩ := s.onlyFaults_raiseFault code
  exact ⟨s.answered_raiseFault code, hflt, hspritz, hrdy⟩

/-- Settles O33: a reserved word and a command meet the same refusal. -/
theorem faultedEngineRefusesEverything : Obligations.FaultedEngineRefusesEverything := by
  intro s c hf
  obtain ⟨hspritz, hrdy, hflt⟩ := State.onlyFaults_refuse hf
  exact ⟨s.refuse, command_of_flt c hf, s.answered_refuse, hflt, hrdy, hspritz⟩

/-- Settles O34: the conditions are tested in the order of R129, and the first that holds fixes the answer. -/
theorem statusFollowsThePriority : Obligations.StatusFollowsThePriority := by
  intro s c
  cases hf : s.flt with
  | true => exact ⟨s.refuse, 0x00, _, command_of_flt c hf, s.answered_refuse, (if_pos rfl).symm⟩
  | false =>
    rw [if_neg Bool.false_ne_true]
    cases hw : wellFormedWord c with
    | false =>
      refine ⟨s.raiseFault .errIllegal, 0x00, _, ?_, s.answered_raiseFault _, (if_pos rfl).symm⟩
      rw [command_of_reserved hw, State.illegalWord_of_not_flt hf]
    | true =>
      obtain ⟨i, rfl⟩ := (wellFormedWord_iff_exists_encode c).1 hw
      rw [if_neg Bool.false_ne_true.symm]
      exact command_encode_status i hf

/-- Settles O36: a command that ran answered OK, and every other answer only faults. -/
theorem faultNeverCorruptsTheSpritzState : Obligations.FaultNeverCorruptsTheSpritzState := by
  intro s t c r h hresp herr
  rcases command_ran_or_onlyFaults h with ⟨i, rfl⟩ | ⟨hspritz, hrdy, hflt⟩
  · have sent : responseWord .ok (bodyOf i s.spritz).2 = r := by
      simpa using hresp
    rw [← sent, statusByte_responseWord] at herr
    exact absurd rfl herr
  · exact ⟨hspritz, hrdy, hflt⟩

end Sys2Proof.Machine

/-! PROOF. The encoder, the decoder and the assembler (30_encoding.md R45 to R62): the two directions of the encoding,
sample words, and the words of a program as words of commands. -/

namespace Sys2Proof

/-- Settles O1: the two fields of a command's word are read back, and with them its operand. -/
theorem decodeOfEncodeIsTheCommand : Obligations.DecodeOfEncodeIsTheCommand := decode_of_encode

/-- Settles O2: each line of the decoder fixes both fields of the word. -/
theorem encodeOfDecodeIsTheWord : Obligations.EncodeOfDecodeIsTheWord := fun _ _ => encode_of_decode

/-- Settles O5: eleven closed words. -/
theorem sampleWordsDecode : Obligations.SampleWordsDecode := by
  unfold Obligations.SampleWordsDecode
  decide

theorem Decoded.eq_command_of_instr? {d : Decoded} {i : Instr} (h : d.instr? = some i) : d = .command i := by
  cases d with
  | command j => exact congrArg _ (Option.some.inj h)
  | illegal why => cases h

/-! ### The assembler (R56 to R62) -/

theorem wellFormedWord_encode (i : Instr) : wellFormedWord (encode i) = true :=
  (wellFormedWord_iff_exists_encode _).2 ⟨i, rfl⟩

end Sys2Proof

namespace Sys2Proof.Machine

/-- Whatever a line stands for, it is a list of commands, so the text is one list of commands, encoded. -/
theorem exists_commands_of_assemble {ls : List (List Char)} {ws : List Word} (h : assemble ls = some ws) :
    ∃ is : List Instr, ws = is.map encode := by
  induction ls generalizing ws with
  | nil =>
    cases h
    exact ⟨[], rfl⟩
  | cons l ls ih =>
    rw [assemble] at h
    split at h
    next is _ _ hrest =>
      obtain ⟨rest, rfl⟩ := ih hrest
      cases h
      exact ⟨is ++ rest, List.map_append.symm⟩
    next => cases h

/-- Settles O54: the text becomes a list of commands, and the word of a command is legal. -/
theorem assemblerEmitsOnlyLegalWords : Obligations.AssemblerEmitsOnlyLegalWords := by
  intro ls ws h w hw
  obtain ⟨is, rfl⟩ := exists_commands_of_assemble h
  obtain ⟨i, _, rfl⟩ := List.mem_map.1 hw
  exact wellFormedWord_encode i

end Sys2Proof.Machine

/-! PROOF. Steps (60_exceptions.md R125 to R131, R141, 70_reset_and_hazards.md R145 to R149): what a step is for each
thing the host does next, the four answers to a word, and what they leave of the flags, of `z` and of the data's form. -/

namespace Sys2Proof.Machine

/-! ### The step, by what the host does next -/

theorem step_of_fetch_none {s : State} (h : s.fetch = none) : step s = .next s := by
  rw [step, h]

theorem step_of_resetNext {s : State} (h : s.resetNext) : ∃ r, step s = .next (s.hardReset r).advance := by
  rcases h with h | ⟨c, h⟩
  · exact ⟨none, by rw [step, h]; rfl⟩
  · exact ⟨some c, by rw [step, h]; rfl⟩

theorem command_of_decode {c : Word} {i : Instr} (h : decode c = .command i) (s : State) : command c s = exec i s := by
  rw [command, h]

/-- Settles O6: a presented word goes to the decoder, and its command to `exec`. -/
theorem stepRunsTheDecodedCommand : Obligations.StepRunsTheDecodedCommand := by
  refine ⟨fun s c i hfetch hd => ?_, fun s w i hd => ?_⟩
  · rw [step_of_fetch_issue hfetch, command_of_decode hd]
  · rw [State.withFetchWord, step_present, command_of_decode (Decoded.eq_command_of_instr? hd)]

/-- Settles O7: there is nothing to fetch. -/
theorem stepIdlesAtTheEndOfTheProgram : Obligations.StepIdlesAtTheEndOfTheProgram := fun _ h =>
  step_of_fetch_none (List.getElem?_eq_none h)

/-- Settles O8: idle, a command word and both kinds of reset each have a next state. -/
theorem everyStepAnswers : Obligations.EveryStepAnswers := by
  intro s
  cases hfetch : s.fetch with
  | none => exact ⟨s, step_of_fetch_none hfetch⟩
  | some act =>
    cases act with
    | issue c =>
      obtain ⟨t, ht, _⟩ := command_outcome c s
      exact ⟨t, (step_of_fetch_issue hfetch).trans ht⟩
    | reset =>
      obtain ⟨r, hr⟩ := step_of_resetNext (.inl hfetch)
      exact ⟨_, hr⟩
    | resetDuring c =>
      obtain ⟨r, hr⟩ := step_of_resetNext (.inr ⟨c, hfetch⟩)
      exact ⟨_, hr⟩

/-- Settles O37: either kind of reset is the same `hardReset`, with another free value. -/
theorem resetClearsFlagsWithoutResponse : Obligations.ResetClearsFlagsWithoutResponse := by
  intro s h
  obtain ⟨r, hr⟩ := step_of_resetNext h
  exact ⟨_, hr, by simp⟩

/-- Settles O39: the fields of `State.reset`. -/
theorem resetLeavesTheFlagsClear : Obligations.ResetLeavesTheFlagsClear := ⟨rfl, rfl, rfl, rfl, rfl⟩

/-- Settles O40: the word is INIT's, and the engine after reset admits INIT. -/
theorem initAfterResetIsAccepted : Obligations.InitAfterResetIsAccepted := by
  have word : tableWord 16 0x0100 = encode .init := by decide
  have ran : step (State.reset.withFetchWord 16 0x0100) = .next ((State.reset.present (encode .init)).ran .init) := by
    rw [State.withFetchWord, word, step_present, command_encode, exec_of_admitted (State.present_flt _ _) (.inl rfl)]
  refine ⟨_, ran, ?_, State.ran_rdy _ _, ?_, fun n => ?_⟩
  · rw [State.ran_responses, State.present_responses, bodyOf]
    decide
  · rw [State.ran_flt, State.present_flt]
    rfl
  · rw [State.ran_init_spritz, Spritz.read_initial]

/-! ### The answers to a word (R129) -/

/-- The engine is faulted and refuses, or it faults now, or the word is that of a command it runs. -/
inductive WordOutcome (c : Word) (s : State) : State → Prop where
  | refused (hf : s.flt = true) : WordOutcome c s s.refuse
  | faults (code : Status) (hcode : code = .errIllegal ∨ code = .errNotInit) (hf : s.flt = false) :
      WordOutcome c s (s.raiseFault code)
  | ran (i : Instr) (hd : decode c = .command i) (hf : s.flt = false) (hr : i = .init ∨ s.rdy = true) :
      WordOutcome c s (s.ran i)

theorem command_wordOutcome {c : Word} {s t : State} (h : command c s = .next t) : WordOutcome c s t := by
  rcases command_cases h with ⟨_, _, rfl⟩ | ⟨i, hd, outcome⟩
  · cases hf : s.flt with
    | true => exact State.illegalWord_of_flt hf ▸ .refused hf
    | false => exact State.illegalWord_of_not_flt hf ▸ .faults _ (.inl rfl) hf
  · cases outcome with
    | refused hf => exact .refused hf
    | notInit hf _ _ => exact .faults _ (.inr rfl) hf
    | ran hf hr => exact .ran i hd hf hr

/-- Settles O38: a refusal keeps both flags, a fault sets `flt`, and only INIT runs where `rdy = 0`. -/
theorem onlyResetClearsTheFlags : Obligations.OnlyResetClearsTheFlags := by
  intro s t h
  rcases step_cases h with ⟨_, rfl⟩ | ⟨c, hfetch, hc⟩ | ⟨hreset, r, rfl⟩
  · simp +contextual
  · cases command_wordOutcome hc with
    | refused hf => simp +contextual [hf]
    | faults code hcode hf =>
      refine ⟨by simp +contextual, by simp, by simp +contextual, fun _ _ => ?_⟩
      exact ⟨c, _, hfetch, s.raiseFault_responses code,
        hcode.imp (congrArg (responseWord · 0x00)) (congrArg (responseWord · 0x00))⟩
    | ran i hd hf hr =>
      refine ⟨by simp, by simp [hf], fun hr' _ => ?_, by simp [hf]⟩
      have isInit : i = .init := hr.resolve_right (by simp [hr'])
      rw [hfetch, ← encode_of_decode hd, isInit]
      rfl
  · exact ⟨fun _ _ => hreset, fun _ _ => hreset, by simp, by simp⟩

/-! ### `z` (10_state.md R15) -/

theorem bodyOf_z {i : Instr} (hinit : i ≠ .init) (hdrip : i ≠ .drip) (hxork : ∀ b, i ≠ .xork b) (p : Spritz) :
    (bodyOf i p).1.z = p.z := by
  cases i with
  | init => exact absurd rfl hinit
  | absn x => exact absorbMarks_z (commandMarks (.absn x)) p
  | absb b => exact absorbMarks_z (commandMarks (.absb b)) p
  | stop => exact absorbMarks_z (commandMarks .stop) p
  | flush => exact p.flush_z
  | drip => exact absurd rfl hdrip
  | xork b => exact absurd rfl (hxork b)

/-- Settles O44: the marks of the absorb commands and the guard of FLUSH do not write `z`. -/
theorem onlyOutputCommandsWriteZ : Obligations.OnlyOutputCommandsWriteZ := by
  intro s t h hz
  rcases step_cases h with ⟨_, rfl⟩ | ⟨c, hfetch, hc⟩ | ⟨hreset, _⟩
  · exact absurd rfl hz
  · refine .inr ⟨c, hfetch, ?_⟩
    cases command_wordOutcome hc with
    | refused _ => exact absurd (congrArg _ s.refuse_spritz) hz
    | faults code _ _ => exact absurd (congrArg _ (s.raiseFault_spritz code)) hz
    | ran i hd _ _ =>
      by_contra hother
      simp only [hd, Decoded.command.injEq, not_or, not_exists] at hother
      obtain ⟨hinit, hdrip, hxork⟩ := hother
      rw [State.ran_spritz] at hz
      exact hz (bodyOf_z hinit hdrip hxork s.spritz)
  · exact .inl hreset

/-! ### The form of the data -/

theorem State.cur_lt_of_fetch {s : State} {act : HostAct} (h : s.fetch = some act) : s.cur < s.prog.length :=
  (List.getElem?_eq_some_iff.1 h).1

/-- An answer with a legal response keeps the form if it keeps the memory canonical. -/
theorem State.Form.of_answered {s t : State} {st : Status} {d : Byte} (h : s.Form) (hcur : s.cur < s.prog.length)
    (answered : s.Answered t st d) (hlegal : legalResponse (responseWord st d)) (hwf : t.spritz.S.wf) : t.Form where
  canonical := hwf
  cursor := by rw [answered.cur, answered.prog]; exact hcur
  legal := by
    rw [answered.responses]
    exact List.forall_mem_append.2 ⟨h.legal, List.forall_mem_singleton.2 hlegal⟩

theorem State.Form.hardReset_advance {s : State} (h : s.Form) (hcur : s.cur < s.prog.length) (r : Option Word) :
    (s.hardReset r).advance.Form where
  canonical := by
    rw [State.advance_spritz, State.hardReset_spritz]
    exact Spritz.unspecified_wf _ _ _
  cursor := by simpa using hcur
  legal := by simpa using h.legal

/-- Settles O41: no Spritz state exists, the empty memory is canonical, and nothing was delivered. -/
theorem invariantsHoldAtReset : Obligations.InvariantsHoldAtReset :=
  ⟨fun hr => absurd hr Bool.false_ne_true, Memory.wf_nil, Nat.le_refl 0, List.forall_mem_nil _⟩

/-- Settles O43: whatever the host does next was fetched within its program, and each command's body keeps the memory
canonical. -/
theorem everyStepKeepsTheForm : Obligations.EveryStepKeepsTheForm := by
  intro s t h hs
  rcases step_cases hs with ⟨_, rfl⟩ | ⟨c, hfetch, hc⟩ | ⟨hreset, r, rfl⟩
  · exact h
  · have hcur := State.cur_lt_of_fetch hfetch
    cases command_wordOutcome hc with
    | refused _ =>
      exact h.of_answered hcur s.answered_refuse (legalResponse_no_data _) (s.refuse_spritz ▸ h.canonical)
    | faults code _ _ =>
      exact h.of_answered hcur (s.answered_raiseFault code) (legalResponse_no_data _)
        (s.raiseFault_spritz code ▸ h.canonical)
    | ran i _ _ _ =>
      exact h.of_answered hcur (s.answered_ran i) (legalResponse_ok _) (s.ran_spritz i ▸ bodyOf_wf i h.canonical)
  · have hcur : s.cur < s.prog.length := by
      rcases hreset with hfetch | ⟨_, hfetch⟩
      · exact State.cur_lt_of_fetch hfetch
      · exact State.cur_lt_of_fetch hfetch
    exact h.hardReset_advance hcur r

/-! ### What an answer tells of the Spritz state (R127) -/

theorem command_no_data {c : Word} {s t : State} {st : Status} {d : Byte} (h : command c s = .next t)
    (answered : s.Answered t st d) (herr : st ≠ .ok) : d = 0x00 := by
  obtain ⟨r, hr, hdata, _⟩ := dataByteOfAResponse s t c h
  have sent : [r] = [responseWord st d] := List.append_cancel_left (hr.symm.trans answered.responses)
  cases sent
  rw [statusByte_responseWord, dataByte_responseWord] at hdata
  exact hdata fun hok => herr (Status.code_injective hok)

/-- Settles O35: the word and the flags choose the status, and no status but OK carries data. -/
theorem refusalsRevealNoSpritzState : Obligations.RefusalsRevealNoSpritzState := by
  intro s s' t t' c hrdy hflt ht ht'
  obtain ⟨_, d, st, hu, answered, hst⟩ := statusFollowsThePriority s c
  obtain ⟨_, d', st', hu', answered', hst'⟩ := statusFollowsThePriority s' c
  cases ht.symm.trans hu
  cases ht'.symm.trans hu'
  have sameStatus : st' = st := by rw [hst, hst', hrdy, hflt]
  rw [sameStatus] at answered'
  refine ⟨_, _, answered.responses, answered'.responses, ?_, fun hcode => ?_⟩
  · rw [statusByte_responseWord, statusByte_responseWord]
  · have herr : st ≠ .ok := fun hok => hcode ((statusByte_responseWord st d).trans (congrArg _ hok))
    rw [command_no_data ht answered herr, command_no_data ht' answered' herr]

/-- Settles O32: the fault is the answer, and a fault sets `flt` only. -/
theorem commandsBeforeInitFault : Obligations.CommandsBeforeInitFault := by
  intro s i hf hr hi
  obtain ⟨hspritz, hrdy, hflt⟩ := s.onlyFaults_raiseFault .errNotInit
  exact ⟨_, exec_of_not_rdy hf hr hi, s.answered_raiseFault _, hflt, hrdy.trans hr, hspritz⟩

/-! ### Runs (70_reset_and_hazards.md R149) -/

/-- OK comes from an engine that is ready after it, every other status from one that is faulted after it; a faulted
engine does not answer OK. -/
theorem command_reply {c : Word} {s u : State} (h : command c s = .next u) :
    ∃ st d, s.Answered u st d ∧ (st = .ok → u.flt = false ∧ u.rdy = true) ∧ (st ≠ .ok → u.flt = true) ∧
      (s.flt = true → st ≠ .ok) := by
  cases command_wordOutcome h with
  | refused hf => exact ⟨_, _, s.answered_refuse, by simp, fun _ => s.refuse_flt.trans hf, by simp⟩
  | faults code hcode hf =>
    have herr : code ≠ .ok := by rcases hcode with rfl | rfl <;> simp
    exact ⟨_, _, s.answered_raiseFault code, fun hok => absurd hok herr, fun _ => s.raiseFault_flt code,
      fun _ => herr⟩
  | ran i _ hf _ =>
    exact ⟨_, _, s.answered_ran i, fun _ => ⟨(s.ran_flt i).trans hf, s.ran_rdy i⟩, fun herr => absurd rfl herr,
      by simp [hf]⟩

/-- From `s` to `t` the responses `rs` were delivered, one per position of the host's program; they tell whether the
engine ends ready or faulted. -/
structure State.RunAnswers (s t : State) (rs : List Word) : Prop where
  cur : t.cur = s.cur + rs.length
  responses : t.responses = s.responses ++ rs
  good : goodResponses rs → (rs ≠ [] ∨ s.flt = false ∧ s.rdy = true) → t.flt = false ∧ t.rdy = true
  bad : (¬ goodResponses rs ∨ s.flt = true) → t.flt = true

theorem State.RunAnswers.refl (s : State) : s.RunAnswers s [] where
  cur := rfl
  responses := (List.append_nil _).symm
  good _ ready := ready.resolve_left fun h => h rfl
  bad bad := bad.resolve_left fun h => h (List.forall_mem_nil _)

theorem goodResponses_cons_iff (st : Status) (d : Byte) (rs : List Word) :
    goodResponses (responseWord st d :: rs) ↔ st = .ok ∧ goodResponses rs := by
  have head : statusByte (responseWord st d) = Status.ok.code ↔ st = .ok := by
    rw [statusByte_responseWord]
    exact ⟨Status.code_injective, congrArg _⟩
  rw [goodResponses, List.forall_mem_cons, head]

theorem State.RunAnswers.cons {c : Word} {s u t : State} {rs : List Word} (h : command c s = .next u)
    (rest : u.RunAnswers t rs) : ∃ r, s.RunAnswers t (r :: rs) := by
  obtain ⟨st, d, answered, hok, herr, hsticky⟩ := command_reply h
  refine ⟨responseWord st d, ?_, ?_, fun good _ => ?_, fun bad => ?_⟩
  · rw [rest.cur, answered.cur, List.length_cons, Nat.add_assoc, Nat.add_comm 1]
  · rw [rest.responses, answered.responses, List.append_assoc, List.singleton_append]
  · obtain ⟨hst, good⟩ := (goodResponses_cons_iff st d rs).1 good
    exact rest.good good (.inr (hok hst))
  · apply rest.bad
    by_cases hst : st = .ok
    · rw [goodResponses_cons_iff, hst, eq_self, true_and] at bad
      exact .inl (bad.resolve_right fun hf => hsticky hf hst)
    · exact .inr (herr hst)

theorem State.fetch_of_drop {s : State} {act : HostAct} {rest : List HostAct}
    (h : s.prog.drop s.cur = act :: rest) : s.fetch = some act := by
  rw [State.fetch, ← List.head?_drop, h, List.head?_cons]

/-- The run of the words that stand at the host's cursor. -/
theorem runAnswers_of_runsTo {cs : List Word} {s t : State} (hprog : s.prog.drop s.cur = cs.map HostAct.issue)
    (h : runsTo cs.length s t) : ∃ rs, rs.length = cs.length ∧ s.RunAnswers t rs := by
  induction cs generalizing s with
  | nil =>
    cases h
    exact ⟨[], rfl, .refl _⟩
  | cons c cs ih =>
    obtain ⟨u, hu, hrest⟩ := h
    rw [step_of_fetch_issue (State.fetch_of_drop hprog)] at hu
    obtain ⟨_, _, answered, _⟩ := command_reply hu
    have later : u.prog.drop u.cur = cs.map HostAct.issue := by
      rw [answered.prog, answered.cur, ← List.drop_drop, hprog, List.map_cons, List.drop_one, List.tail_cons]
    obtain ⟨rs, hlength, rest⟩ := ih later hrest
    obtain ⟨r, all⟩ := rest.cons hu
    exact ⟨r :: rs, congrArg (· + 1) hlength, all⟩

/-- Settles O50: a run of at least one word has a response, and its statuses tell which flags it ends with. -/
theorem runsEndReadyOrFaulted : Obligations.RunsEndReadyOrFaulted := by
  intro cs s t hne hprog hcur h
  obtain ⟨rs, hlength, run⟩ := runAnswers_of_runsTo (by rw [hcur, List.drop_zero, hprog]) h
  have answered : rs ≠ [] := by
    rw [← List.length_pos_iff, hlength]
    exact List.length_pos_iff.2 hne
  refine ⟨?_, rs, run.responses, hlength, fun good => run.good good (.inl answered), fun bad => run.bad (.inl bad)⟩
  rw [run.cur, hcur, hlength, Nat.zero_add]

end Sys2Proof.Machine

/-! PROOF. Frames (40_init.md R65, 42_absorb.md R85 to R89, 43_output.md R95 to R97) and the count of SHUFFLEs
(41_sequencer_microops.md R79): what a command leaves where it is refused and where it runs without a SHUFFLE, and
how many it runs. -/

namespace Sys2Proof.Machine

/-! ### Every command (R127, R128) -/

/-- What a command other than INIT never writes, and the two Spritz states it can leave. -/
structure State.CommandFrame (i : Instr) (s t : State) : Prop where
  spritz : t.spritz = s.spritz ∨ t.spritz = (bodyOf i s.spritz).1
  rdy : t.rdy = s.rdy
  prog : t.prog = s.prog
  resets : t.resets = s.resets

theorem exec_commandFrame {i : Instr} (hi : i ≠ .init) {s t : State} (h : exec i s = .next t) :
    s.CommandFrame i t := by
  cases exec_cases h with
  | refused _ => exact ⟨.inl s.refuse_spritz, s.refuse_rdy, s.refuse_prog, s.refuse_resets⟩
  | notInit _ _ _ =>
    exact ⟨.inl (s.raiseFault_spritz _), s.raiseFault_rdy _, s.raiseFault_prog _, s.raiseFault_resets _⟩
  | ran _ hr =>
    have hrdy : s.rdy = true := hr.resolve_left hi
    exact ⟨.inr (s.ran_spritz i), (s.ran_rdy i).trans hrdy.symm, s.ran_prog i, s.ran_resets i⟩

/-- Settles O30: refused or executed, INIT writes no more than the Spritz state, `rdy` and its one response. -/
theorem initFrame : Obligations.InitFrame := by
  intro s t h
  cases exec_cases h with
  | refused _ =>
    exact ⟨s.refuse_flt, s.refuse_prog, s.refuse_resets, ⟨_, s.refuse_responses⟩,
      fun _ => ⟨s.refuse_spritz, s.refuse_rdy⟩⟩
  | notInit _ _ hi => exact absurd rfl hi
  | ran hf _ =>
    exact ⟨s.ran_flt _, s.ran_prog _, s.ran_resets _, ⟨_, s.ran_responses _⟩, fun hf' => by simp [hf] at hf'⟩

/-! ### STOP, FLUSH, ABSN and ABSB without SHUFFLE (R85 to R89, R95) -/

/-- `q` keeps i, j, k, z, w of `p`, and of `S` every entry outside `stored`. -/
structure Spritz.StoresOnly (p q : Spritz) (stored : Byte → Prop) : Prop where
  entries : p.SameOutside q stored
  i : q.i = p.i
  j : q.j = p.j
  k : q.k = p.k
  z : q.z = p.z
  w : q.w = p.w

theorem Spritz.StoresOnly.refl (p : Spritz) (stored : Byte → Prop) : p.StoresOnly p stored where
  entries := fun _ _ => rfl
  i := rfl
  j := rfl
  k := rfl
  z := rfl
  w := rfl

theorem Spritz.StoresOnly.trans {p q r : Spritz} {first second all : Byte → Prop} (hpq : p.StoresOnly q first)
    (hqr : q.StoresOnly r second) (hfirst : ∀ e, first e → all e) (hsecond : ∀ e, second e → all e) :
    p.StoresOnly r all where
  entries := fun e he =>
    (hqr.entries e (mt (hsecond e) he)).trans (hpq.entries e (mt (hfirst e) he))
  i := hqr.i.trans hpq.i
  j := hqr.j.trans hpq.j
  k := hqr.k.trans hpq.k
  z := hqr.z.trans hpq.z
  w := hqr.w.trans hpq.w

theorem Spritz.stopMark_storesOnly {p : Spritz} (room : p.a ≠ 128) : p.StoresOnly p.stopMark (fun _ => False) := by
  rw [Spritz.stopMark, Spritz.makeRoom_of_ne room]
  exact ⟨fun e _ => by rw [p.countOne_S], p.countOne_i, p.countOne_j, p.countOne_k, p.countOne_z, p.countOne_w⟩

theorem Spritz.nibble_storesOnly {p : Spritz} (room : p.a ≠ 128) (x : Nibble) :
    p.StoresOnly (p.nibble x) (fun e => e = p.a ∨ e = nibbleTarget x) := by
  rw [Spritz.nibble, Spritz.makeRoom_of_ne room]
  refine ⟨fun e he => ?_, by simp, by simp, by simp, by simp, by simp⟩
  rw [Spritz.countOne_S, p.swap_sameOutside _ _ e he]

theorem Spritz.nibble_a_of_ne {p : Spritz} (room : p.a ≠ 128) (x : Nibble) : (p.nibble x).a = p.a + 1 := by
  rw [← AbsorbMark.apply_nibble, AbsorbMark.apply_a, Spritz.makeRoom_of_ne room]

/-- The second nibble of an ABSB goes to the entry after the first one's (R86). -/
theorem Spritz.nibble_nibble_storesOnly {p : Spritz} (room : p.a ≠ 128) (room' : p.a ≠ 127) (x y : Nibble) :
    p.StoresOnly ((p.nibble x).nibble y)
      (fun e => e = p.a ∨ e = p.a + 1 ∨ e = nibbleTarget x ∨ e = nibbleTarget y) := by
  have count := Spritz.nibble_a_of_ne room x
  have second := Spritz.nibble_storesOnly (p := p.nibble x) (by rw [count]; bv_omega) y
  rw [count] at second
  exact (Spritz.nibble_storesOnly room x).trans second (by tauto) (by tauto)

/-- A command other than INIT stores what its body stores, or nothing where it is refused. -/
theorem exec_storesOnly {i : Instr} (hi : i ≠ .init) {s t : State} (h : exec i s = .next t) {stored : Byte → Prop}
    (body : s.spritz.StoresOnly (bodyOf i s.spritz).1 stored) :
    s.spritz.SameOutside t.spritz stored ∧ t.spritz.i = s.spritz.i ∧ t.spritz.j = s.spritz.j ∧
      t.spritz.k = s.spritz.k ∧ t.spritz.z = s.spritz.z ∧ t.spritz.w = s.spritz.w ∧ t.rdy = s.rdy ∧
      t.prog = s.prog ∧ t.resets = s.resets := by
  have frame := exec_commandFrame hi h
  have left : s.spritz.StoresOnly t.spritz stored := by
    rcases frame.spritz with same | ran
    · exact same ▸ .refl _ _
    · exact ran ▸ body
  exact ⟨left.entries, left.i, left.j, left.k, left.z, left.w, frame.rdy, frame.prog, frame.resets⟩

/-- Settles O27: STOP only counts, and FLUSH does nothing where nothing is pending. -/
theorem stopAndFlushFrame : Obligations.StopAndFlushFrame := by
  rintro s t (⟨room, h⟩ | ⟨nothing, h⟩)
  · exact exec_storesOnly (by simp) h (Spritz.stopMark_storesOnly room)
  · refine exec_storesOnly (by simp) h ?_
    rw [bodyOf, Spritz.flush_of_a_eq_zero nothing]
    exact .refl _ _

/-- Settles O28: a NIBBLE that finds room is one exchange, and ABSB is two of them. -/
theorem absorbingCommandsFrame : Obligations.AbsorbingCommandsFrame := by
  refine ⟨fun s t x room h => ?_, fun s t b room room' h => ?_⟩
  · exact exec_storesOnly (by simp) h (Spritz.nibble_storesOnly room x)
  · exact exec_storesOnly (by simp) h (Spritz.nibble_nibble_storesOnly room room' _ _)

/-! ### DRIP and XORK without SHUFFLE (R96, R97) -/

theorem Spritz.squeeze_of_a_eq_zero {p : Spritz} (nothing : p.a = 0) : p.squeeze = p.update.output := by
  rw [Spritz.squeeze, Spritz.flush_of_a_eq_zero nothing]

theorem Spritz.update_sameOutside (p : Spritz) :
    p.SameOutside p.update (fun e => e = p.update.i ∨ e = p.update.j) := by
  intro e he
  obtain ⟨hi, hj⟩ := not_or.1 he
  rw [p.read_update, if_neg (Ne.symm hj), if_neg (Ne.symm hi)]

/-- A command that leaves what DRIP leaves, or nothing changed where it is refused. -/
theorem exec_squeeze_frame {i : Instr} (hi : i ≠ .init) {s t : State} (h : exec i s = .next t)
    (body : (bodyOf i s.spritz).1 = s.spritz.squeeze) (nothing : s.spritz.a = 0) :
    s.spritz.SameOutside t.spritz (fun e => e = s.spritz.update.i ∨ e = s.spritz.update.j) ∧
      t.spritz.a = s.spritz.a ∧ t.spritz.w = s.spritz.w ∧ t.rdy = s.rdy ∧ t.prog = s.prog ∧
      t.resets = s.resets := by
  obtain ⟨same | ran, hrdy, hprog, hresets⟩ := exec_commandFrame hi h
  · rw [same]
    exact ⟨fun _ _ => rfl, rfl, rfl, hrdy, hprog, hresets⟩
  · rw [ran, body, Spritz.squeeze_of_a_eq_zero nothing]
    refine ⟨fun e he => ?_, by simp, by simp, hrdy, hprog, hresets⟩
    rw [Spritz.output_S, s.spritz.update_sameOutside e he]

/-- Settles O29: with nothing pending only UPDATE writes `S`, and it exchanges two entries. -/
theorem outputCommandsFrame : Obligations.OutputCommandsFrame := by
  rintro s t nothing (h | ⟨b, h⟩)
  · exact exec_squeeze_frame (by simp) h rfl nothing
  · exact exec_squeeze_frame (by simp) h rfl nothing

/-! ### At most one SHUFFLE (R79) -/

/-- ABSB tests the window twice: the second test succeeds where the first nibble filled it. -/
theorem commandShuffles_absb (b : Byte) (p : Spritz) :
    commandShuffles (.absb b) p = if p.a = 127 ∨ p.a = 128 then 1 else 0 := by
  have filled : ((AbsorbMark.nibble (lowNibble b)).apply p).a = 128 ↔ p.a = 127 := by
    rw [AbsorbMark.apply_a, Spritz.makeRoom_a]
    split <;> bv_omega
  have exclusive : p.a = 128 → p.a ≠ 127 := by bv_omega
  rw [commandShuffles, commandMarks, shufflesRun_cons, shufflesRun_cons, shufflesRun_nil, if_congr filled rfl rfl,
    commandGuarded]
  by_cases full : p.a = 128
  · rw [if_pos full, if_neg (exclusive full), if_pos (Or.inr full : p.a = 127 ∨ p.a = 128)]
    simp
  · rw [if_neg full, if_congr (or_iff_left full) rfl rfl]
    simp

theorem commandShuffles_le_one (i : Instr) (p : Spritz) : commandShuffles i p ≤ 1 := by
  cases i with
  | init => exact Nat.zero_le 1
  | absn x => exact commandShuffles_absn x p ▸ ite_le_one le_rfl zero_le_one
  | absb b => exact commandShuffles_absb b p ▸ ite_le_one le_rfl zero_le_one
  | stop => exact commandShuffles_stop p ▸ ite_le_one le_rfl zero_le_one
  | flush | drip | xork =>
    rw [commandShuffles_guarded rfl]
    exact ite_le_one le_rfl zero_le_one

/-- The state a guarded command goes on from is the one with the SHUFFLE its guard counts. -/
theorem Spritz.flush_of_guarded {i : Instr} (guarded : commandGuarded i = true) (p : Spritz) :
    (if commandShuffles i p = 1 then p.shuffle else p) = p.flush := by
  rw [commandShuffles_guarded guarded, Spritz.flush]
  cases p.pending <;> simp

theorem Spritz.flush_w_of_guarded {i : Instr} (guarded : commandGuarded i = true) (p : Spritz) :
    p.flush.w = p.w + 6 * BitVec.ofNat 8 (commandShuffles i p) := by
  rw [commandShuffles_guarded guarded, Spritz.flush]
  cases p.pending
  · simp
  · exact p.shuffle_w

theorem Spritz.squeeze_w (p : Spritz) : p.squeeze.w = p.flush.w := by
  rw [Spritz.squeeze, Spritz.output_w, Spritz.update_w]

theorem bodyOf_of_commandMarks {i : Instr} (absorbs : commandMarks i ≠ []) (p : Spritz) :
    (bodyOf i p).1 = absorbMarks (commandMarks i) p := by
  cases i with
  | absn x => exact bodyOf_of_absorbs (.inl ⟨x, rfl⟩) p
  | absb b => exact bodyOf_of_absorbs (.inr (.inl ⟨b, rfl⟩)) p
  | stop => exact bodyOf_of_absorbs (.inr (.inr rfl)) p
  | init | flush | drip | xork => exact absurd rfl absorbs

theorem bodyOf_w_of_guarded {i : Instr} (guarded : commandGuarded i = true) (p : Spritz) :
    (bodyOf i p).1.w = p.flush.w := by
  cases i with
  | init | absn | absb | stop => cases guarded
  | flush => rfl
  | drip => exact p.squeeze_w
  | xork b => exact p.squeeze_w

theorem bodyOf_w_of_commandMarks {i : Instr} (absorbs : commandMarks i ≠ []) (unguarded : commandGuarded i = false)
    (p : Spritz) : (bodyOf i p).1.w = p.w + 6 * BitVec.ofNat 8 (commandShuffles i p) := by
  have count : commandShuffles i p = shufflesRun (commandMarks i) p := by simp [commandShuffles, unguarded]
  rw [bodyOf_of_commandMarks absorbs, absorbMarks_w, count]

/-- `w` tells how many SHUFFLEs a command ran (R74). -/
theorem bodyOf_w {i : Instr} (hi : i ≠ .init) (p : Spritz) :
    (bodyOf i p).1.w = p.w + 6 * BitVec.ofNat 8 (commandShuffles i p) := by
  cases i with
  | init => exact absurd rfl hi
  | absn | absb | stop => exact bodyOf_w_of_commandMarks (by simp [commandMarks]) rfl p
  | flush | drip | xork => exact (bodyOf_w_of_guarded rfl p).trans (Spritz.flush_w_of_guarded rfl p)

/-- From another Spritz state with the same result a command goes to the same state. -/
theorem exec_with_spritz {i : Instr} {s : State} (hf : s.flt = false) (hr : s.rdy = true) {q : Spritz}
    (h : bodyOf i q = bodyOf i s.spritz) : exec i { s with spritz := q } = .next (s.ran i) := by
  have ran : State.ran i { s with spritz := q } = s.ran i := by
    rw [State.ran, State.ran, h]
    rfl
  rw [← ran]
  exact exec_of_admitted hf (.inr hr)

/-- Settles O45: absorb commands count by their marks, guarded ones by their guard, and `w` confirms the count. -/
theorem atMostOneShufflePerCommand : Obligations.AtMostOneShufflePerCommand := by
  refine ⟨fun p i => commandShuffles_le_one i p, fun p b => commandShuffles_absb b p, fun s t i hi h => ⟨?_, ?_⟩⟩
  · intro hf hr
    rw [exec_of_admitted hf (.inr hr)] at h
    cases h
    rw [State.ran_spritz]
    refine ⟨bodyOf_w hi s.spritz, fun absorbs => bodyOf_of_commandMarks absorbs s.spritz, fun guarded => ?_⟩
    rw [Spritz.flush_of_guarded guarded]
    exact exec_with_spritz hf hr (bodyOf_flush guarded s.spritz)
  · intro hnot
    cases exec_cases h with
    | refused _ => exact s.refuse_spritz
    | notInit _ _ _ => exact s.raiseFault_spritz _
    | ran hf hr => exact absurd ⟨hf, hr.resolve_left hi⟩ hnot

end Sys2Proof.Machine

/-! PROOF. The host's procedures (44_host_sequences.md R105 to R112): what a list of commands leaves and answers on an
engine that admits it, as a function of the Spritz state alone, and XORK and DRIP as uses of the one keystream. -/

namespace Sys2Proof.Machine

/-! ### A list of admitted commands -/

/-- The data bytes of the commands, run in order from a Spritz state. -/
def commandsData : List Instr → Spritz → List Byte
  | [], _ => []
  | i :: is, p => (bodyOf i p).2 :: commandsData is (bodyOf i p).1

/-- The Spritz state the commands leave, run in order. -/
def commandsSpritz : List Instr → Spritz → Spritz
  | [], p => p
  | i :: is, p => commandsSpritz is (bodyOf i p).1

@[simp] theorem commandsData_length (is : List Instr) (p : Spritz) : (commandsData is p).length = is.length := by
  induction is generalizing p with
  | nil => rfl
  | cons i is ih => rw [commandsData, List.length_cons, ih, List.length_cons]

theorem State.lastResponse_of_append {s : State} {rs : List Word} {r : Word} (h : s.responses = rs ++ [r]) :
    s.lastResponse = r := by
  simp [State.lastResponse, h]

theorem State.issue_encode {i : Instr} {s : State} (hf : s.flt = false) (hr : i = .init ∨ s.rdy = true) :
    s.issue (encode i) = (s.present (encode i)).ran i := State.issue_ran (decode_of_encode i) hf hr

/-- The response to a command the engine admits. -/
theorem State.issue_encode_responses {i : Instr} {s : State} (hf : s.flt = false) (hr : i = .init ∨ s.rdy = true) :
    (s.issue (encode i)).responses = s.responses ++ [responseWord .ok (bodyOf i s.spritz).2] := by
  rw [State.issue_encode hf hr, State.ran_responses, State.present_responses, State.present_spritz]

/-- After a command the engine admits, it is ready, and its Spritz state is the one the body gives. -/
theorem State.issue_encode_ready {i : Instr} {s : State} (hf : s.flt = false) (hr : i = .init ∨ s.rdy = true) :
    (s.issue (encode i)).flt = false ∧ (s.issue (encode i)).rdy = true ∧
      (s.issue (encode i)).spritz = (bodyOf i s.spritz).1 := by
  rw [State.issue_encode hf hr]
  exact ⟨by simp [hf], by simp, by simp⟩

theorem State.replies_map_encode (is : List Instr) {s : State} (hf : s.flt = false) (hr : s.rdy = true) :
    s.replies (is.map encode) = (commandsData is s.spritz).map (responseWord .ok) := by
  induction is generalizing s with
  | nil => simp [State.replies, State.issueWords, commandsData]
  | cons i is ih =>
    obtain ⟨hf', hr', left⟩ := State.issue_encode_ready (i := i) hf (.inr hr)
    rw [List.map_cons, State.replies_cons (State.issue_encode_responses hf (.inr hr)), ih hf' hr', left, commandsData,
      List.map_cons]

/-- A procedure's run that reached its end, with the bytes and the Spritz state it ends with. -/
structure HostRun.Completes (r : HostRun) (data : List Byte) (p : Spritz) : Prop where
  error : r.error = none
  data : r.data = data
  spritz : r.state.spritz = p

theorem issueAll_cons_of_ok {i : Instr} {s : State} {d : Byte} (is : List Instr)
    (h : (s.issue (encode i)).lastResponse = responseWord .ok d) :
    issueAll (i :: is) s =
      ⟨(issueAll is (s.issue (encode i))).state, d :: (issueAll is (s.issue (encode i))).data,
        (issueAll is (s.issue (encode i))).error⟩ := by
  simp [issueAll, h]

/-- A ready engine admits every list of commands, and one that is not faulted every list that begins with INIT. -/
theorem issueAll_completes (is : List Instr) {s : State} (hf : s.flt = false)
    (hr : is.head? = some .init ∨ s.rdy = true) :
    (issueAll is s).Completes (commandsData is s.spritz) (commandsSpritz is s.spritz) := by
  induction is generalizing s with
  | nil => exact ⟨rfl, rfl, rfl⟩
  | cons i is ih =>
    have admitted : i = .init ∨ s.rdy = true := hr.imp_left Option.some.inj
    obtain ⟨hf', hr', left⟩ := State.issue_encode_ready hf admitted
    obtain ⟨error, data, spritz⟩ := ih hf' (.inr hr')
    rw [left] at data spritz
    rw [issueAll_cons_of_ok is (State.lastResponse_of_append (State.issue_encode_responses hf admitted))]
    exact ⟨error, congrArg _ data, spritz⟩

theorem HostRun.Completes.dropData {r : HostRun} {data : List Byte} {p : Spritz} (h : r.Completes data p) (n : Nat) :
    (r.dropData n).Completes (data.drop n) p where
  error := h.error
  data := congrArg (List.drop n) h.data
  spritz := h.spritz

/-! ### The keystream (43_output.md R96, R97, R100) -/

@[simp] theorem Spritz.keystream_length (n : Nat) (p : Spritz) : (Spritz.keystream n p).length = n := by
  induction n generalizing p with
  | zero => rfl
  | succ n ih => rw [Spritz.keystream, List.length_cons, ih]

/-- A FLUSH before the first byte changes no byte (R98). -/
theorem Spritz.keystream_flush (n : Nat) (p : Spritz) :
    Spritz.keystream (n + 1) p.flush = Spritz.keystream (n + 1) p := by
  rw [Spritz.keystream, Spritz.keystream, Spritz.squeeze_flush]

theorem commandsData_pseudoDripm (n : Nat) (p : Spritz) : commandsData (pseudoDripm n) p = Spritz.keystream n p := by
  induction n generalizing p with
  | zero => rfl
  | succ n ih =>
    rw [pseudoDripm, List.replicate_succ, commandsData, bodyOf, Spritz.keystream, ← ih]
    rfl

theorem commandsSpritz_pseudoDripm_flush (n : Nat) (p : Spritz) :
    commandsSpritz (pseudoDripm (n + 1)) p.flush = commandsSpritz (pseudoDripm (n + 1)) p := by
  rw [pseudoDripm, List.replicate_succ, commandsSpritz, commandsSpritz, bodyOf_flush rfl]

theorem commandsData_xork (bs : List Byte) (p : Spritz) :
    commandsData (bs.map .xork) p = List.zipWith (· ^^^ ·) bs (Spritz.keystream bs.length p) := by
  induction bs generalizing p with
  | nil => rfl
  | cons b bs ih =>
    rw [List.map_cons, commandsData, bodyOf, ih, List.length_cons, Spritz.keystream, List.zipWith_cons_cons]

/-- XORK leaves what DRIP leaves, whatever its operand (R97). -/
theorem commandsSpritz_xork (bs : List Byte) (p : Spritz) :
    commandsSpritz (bs.map .xork) p = commandsSpritz (pseudoDripm bs.length) p := by
  induction bs generalizing p with
  | nil => rfl
  | cons b bs ih =>
    rw [List.map_cons, commandsSpritz, bodyOf, ih, List.length_cons, pseudoDripm, pseudoDripm, List.replicate_succ,
      commandsSpritz, bodyOf]

/-- XORing twice with one keystream gives the text back (R100). -/
theorem commandsData_xork_xork (bs : List Byte) (p : Spritz) :
    commandsData ((commandsData (bs.map .xork) p).map .xork) p = bs := by
  induction bs generalizing p with
  | nil => rfl
  | cons b bs ih =>
    rw [List.map_cons, commandsData, bodyOf, List.map_cons, commandsData, bodyOf, ih, BitVec.xor_assoc,
      BitVec.xor_self, BitVec.xor_zero]

/-- The data bytes that XORK of a text returns on a ready engine. -/
theorem State.replies_xork_data (bs : List Byte) {s : State} (hf : s.flt = false) (hr : s.rdy = true) :
    (s.replies (bs.map fun b => encode (.xork b))).map dataByte = commandsData (bs.map .xork) s.spritz := by
  have words : (bs.map fun b => encode (.xork b)) = (bs.map .xork).map encode := by
    rw [List.map_map]
    rfl
  have bytes : dataByte ∘ responseWord .ok = id := funext (dataByte_responseWord .ok)
  rw [words, State.replies_map_encode _ hf hr, List.map_map, bytes, List.map_id]

/-- Settles O49: the replies depend on the engine alone, and each byte is XORed twice with the same keystream byte. -/
theorem xorkRoundTrip : Obligations.XorkRoundTrip := by
  intro s s' hf hf' hr hr' hsame
  have engine : s.SameEngine s' := ⟨hsame.symm, hr'.trans hr.symm, hf'.trans hf.symm⟩
  refine ⟨fun n => engine.replies _, fun ps => ?_⟩
  rw [State.replies_xork_data _ hf' hr', State.replies_xork_data _ hf hr, ← hsame, commandsData_xork_xork]

/-! ### The procedures on a ready engine (R107 to R109) -/

theorem dripMany_completes (n : Nat) {s : State} (hf : s.flt = false) (hr : s.rdy = true) :
    (dripMany n s).Completes (Spritz.keystream n s.spritz) (commandsSpritz (pseudoDripm n) s.spritz) :=
  commandsData_pseudoDripm n s.spritz ▸ issueAll_completes (pseudoDripm n) hf (.inr hr)

/-- The byte dropped is FLUSH's. -/
theorem squeezeBytes_completes (n : Nat) {s : State} (hf : s.flt = false) (hr : s.rdy = true) :
    (squeezeBytes n s).Completes (Spritz.keystream n s.spritz.flush)
      (commandsSpritz (pseudoDripm n) s.spritz.flush) := by
  have run := (issueAll_completes (pseudoSqz n) hf (.inr hr)).dropData 1
  rwa [pseudoSqz, commandsData, commandsSpritz, bodyOf, List.drop_one, List.tail_cons, commandsData_pseudoDripm] at run

theorem xorm_completes (src : List Byte) {s : State} (hf : s.flt = false) (hr : s.rdy = true) :
    ((issueAll (pseudoXorm src) s).dropData 1).Completes
      (List.zipWith (· ^^^ ·) src (Spritz.keystream src.length s.spritz.flush))
      (commandsSpritz (pseudoDripm src.length) s.spritz.flush) := by
  have run := (issueAll_completes (pseudoXorm src) hf (.inr hr)).dropData 1
  rwa [pseudoXorm, commandsData, commandsSpritz, bodyOf, List.drop_one, List.tail_cons, commandsData_xork,
    commandsSpritz_xork] at run

/-- Settles O51: the guard of the first DRIP makes the FLUSH before it redundant. -/
theorem squeezeEqualsDripMany : Obligations.SqueezeEqualsDripMany := by
  intro s n hf hr
  obtain ⟨_, squeezed, squeezedTo⟩ := squeezeBytes_completes (n + 1) hf hr
  obtain ⟨_, dripped, drippedTo⟩ := dripMany_completes (n + 1) hf hr
  refine ⟨?_, ?_, ?_⟩
  · rw [squeezed, dripped, Spritz.keystream_flush]
  · rw [squeezedTo, drippedTo, commandsSpritz_pseudoDripm_flush]
  · rw [squeezed, Spritz.keystream_length]

/-- Settles O52: the lengths are compared first, and the XORKs use the bytes that the DRIPs of `squeezeBytes` return. -/
theorem xorKeystreamChecksLengths : Obligations.XorKeystreamChecksLengths := by
  refine fun s dst src => ⟨fun short => by rw [xorKeystream, if_pos short], fun hf hr fits => ?_⟩
  obtain ⟨_, keystream, keystreamTo⟩ := squeezeBytes_completes src.length hf hr
  obtain ⟨error, xored, xoredTo⟩ := xorm_completes src hf hr
  refine ⟨_, rfl, ?_, ?_⟩
  · rw [keystream, Spritz.keystream_length]
  · rw [xorKeystream, if_neg (Nat.not_lt.2 fits)]
    refine ⟨error, xoredTo.trans keystreamTo.symm, ?_⟩
    rw [HostRun.intoBuffer_data, xored, keystream, List.length_zipWith, Spritz.keystream_length, Nat.min_self]

/-! ### `sum` (R111, R112) -/

/-- INIT erases the history: what follows it does not depend on the Spritz state before it (40_init.md R66). -/
theorem commandsData_of_init {is : List Instr} (h : is.head? = some .init) (p q : Spritz) :
    commandsData is p = commandsData is q := by
  cases is with
  | nil => rfl
  | cons i is =>
    cases h
    rw [commandsData, commandsData, bodyOf, bodyOf]

theorem sumCommands_head (n : Nat) (m : List Byte) : (sumCommands n m).head? = some .init := by
  rw [sumCommands, List.cons_append, List.head?_cons]

theorem sumCommands_length (n : Nat) (m : List Byte) : (sumCommands n m).length = m.length + 4 + n := by
  simp [sumCommands, pseudoAbsm, pseudoSqz, pseudoDripm]
  omega

theorem hashSum_completes {bits : Nat} (m : List Byte) {s : State} (domain : bits % 8 = 0 ∧ 8 ≤ bits ∧ bits ≤ 2048)
    (hf : s.flt = false) :
    (hashSum bits m s).Completes ((commandsData (sumCommands (bits / 8) m) s.spritz).drop (m.length + 4))
      (commandsSpritz (sumCommands (bits / 8) m) s.spritz) := by
  rw [hashSum, if_pos domain]
  exact (issueAll_completes _ hf (.inl (sumCommands_head _ m))).dropData _

/-- Settles O53: `sum` begins with INIT, and of its commands the last `bits / 8` are the DRIPs. -/
theorem hashSumIsDeterministic : Obligations.HashSumIsDeterministic := by
  refine ⟨fun bits m s s' multiple lower upper hf hf' => ?_, fun n => BitVec.toNat_ofNat n 8⟩
  obtain ⟨error, digest, _⟩ := hashSum_completes m ⟨multiple, lower, upper⟩ hf
  obtain ⟨_, digest', _⟩ := hashSum_completes m ⟨multiple, lower, upper⟩ hf'
  refine ⟨error, ?_, ?_⟩
  · rw [digest, List.length_drop, commandsData_length, sumCommands_length, Nat.add_sub_cancel_left]
  · rw [digest, digest', commandsData_of_init (sumCommands_head _ m) s.spritz s'.spritz]

end Sys2Proof.Machine
